-- ==== Sys2Proof/Word.lean ====
section
/-! DEFINITION. The word types of the core (R21, R23, R24, R32, R71, R73): nothing in it is signed (R130). -/

namespace Sys2Proof

/-- A memory byte, a general register or a timer: 8 bits (R21, R26, R28). -/
abbrev Byte := BitVec 8

/-- An opcode, `PC`, `I` or a stack entry: 16 bits (R23, R24, R25, R70). -/
abbrev Word := BitVec 16

/-- The 16 key states, key `k` at bit `k` (R32, R170). -/
abbrev Keys := BitVec 16

/-- A Register operand: "4-bit register selector, values 0–15" (R73). -/
abbrev Reg := Fin 16

end Sys2Proof
end

