-- ==== Sys2Proof/Config.lean ====
section
/-! DEFINITION. What is fixed for one machine (R6), and the free values the spec leaves to the outside. -/

namespace Sys2Proof.Config

/-- `MEM_SIZE` (R6): "fixed-size byte array (4096 bytes)". -/
abbrev memSize : Nat := 4096

/-- `PROGRAM_BASE` (R6): "region starting at offset 0x200". -/
abbrev programBase : Nat := 0x200

/-- `PROGRAM_LIMIT` (R6, R231): a program must be strictly shorter than this. -/
abbrev programLimit : Nat := memSize - programBase

/-- `GLYPH_BYTES` (R6): "font base + 5×VX". -/
abbrev glyphBytes : Nat := 5

/-- The size of the font table: 16 glyphs of 5 bytes (R6, R36). -/
abbrev fontSize : Nat := 80

/-- `DISPLAY_WIDTH` (R6). UNVERIFIED, unsafe: the spec's decision D5, log 7. -/
abbrev displayWidth : Nat := 64

/-- `DISPLAY_HEIGHT` (R6). UNVERIFIED, unsafe: the spec's decision D5, log 7. -/
abbrev displayHeight : Nat := 32

/-- `SPRITE_WIDTH` (R6): "8-bit-wide sprite". -/
abbrev spriteWidth : Nat := 8

/-- `FONT_BASE` (R6), which the spec leaves OPEN (D6) with `FONT_BASE + 80 <= 0x200`: the type is that bound, and there is
no body, so a claim holds for every placement. Safe: log 5. -/
opaque fontBase : Fin 0x1B1

/-- `FONT_DATA` (R36), glyph by glyph, top row first. UNVERIFIED, unsafe for claims about glyph pixels: the spec's decision D7, log 6. -/
def fontGlyphs : List (List Byte) :=
  [[0xF0, 0x90, 0x90, 0x90, 0xF0], [0x20, 0x60, 0x20, 0x20, 0x70],
   [0xF0, 0x10, 0xF0, 0x80, 0xF0], [0xF0, 0x10, 0xF0, 0x10, 0xF0],
   [0x90, 0x90, 0xF0, 0x10, 0x10], [0xF0, 0x80, 0xF0, 0x10, 0xF0],
   [0xF0, 0x80, 0xF0, 0x90, 0xF0], [0xF0, 0x10, 0x20, 0x40, 0x40]] ++
  [[0xF0, 0x90, 0xF0, 0x90, 0xF0], [0xF0, 0x90, 0xF0, 0x10, 0xF0],
   [0xF0, 0x90, 0xF0, 0x90, 0x90], [0xE0, 0x90, 0xE0, 0x90, 0xE0],
   [0xF0, 0x80, 0x80, 0x80, 0xF0], [0xE0, 0x90, 0x90, 0x90, 0xE0],
   [0xF0, 0x80, 0xF0, 0x80, 0xF0], [0xF0, 0x80, 0xF0, 0x80, 0x80]]

/-- The answer of a `host.get_keys()` call that no listed answer covers (U2): a free value for each call. Safe: log 8. -/
opaque freeKeys : Nat → Keys

/-- The byte of a `draw8()` that no listed byte covers (U1, D26): a free value for each call. Safe: log 9. -/
opaque freeByte : Nat → Byte

/-- The owner's choice between a `tick` (true) and a `cycle` (false) that no listed choice covers (U3, D30): a free value
for each choice. Safe: log 10. -/
opaque freeChoiceIsTick : Nat → Bool

end Sys2Proof.Config
end

