-- ==== Sys2Proof/Syntax.lean ====
section
/-! DEFINITION. The 34 instructions of R76, one constructor per row of the opcode table. -/

namespace Sys2Proof

/-- "a closed, tagged set of variants" (R11). Operands as R73 gives them: `x`, `y` register selectors, `n` a Number, `h` the
sprite height, `a` an Address, carried zero-extended to the 16 bits of the `PC` or `I` it goes to (`zext_16(A)`); that it is
below 4096 is `Instr.wellFormed` (log 26). -/
inductive Instr where
  | clearScreen
  /-- `Return`. -/
  | ret
  | goto (a : Word)
  | call (a : Word)
  | skipEqConst (x : Reg) (n : Byte)
  | skipNeqConst (x : Reg) (n : Byte)
  | skipEq (x y : Reg)
  | setConst (x : Reg) (n : Byte)
  | addConst (x : Reg) (n : Byte)
  | set (x y : Reg)
  | or (x y : Reg)
  | and (x y : Reg)
  | xor (x y : Reg)
  | add (x y : Reg)
  | sub (x y : Reg)
  /-- "regardless of Y": the decoded instruction carries `X` only (R78). -/
  | shr (x : Reg)
  | inverseSub (x y : Reg)
  /-- As `shr`: `X` only (R78). -/
  | shl (x : Reg)
  | skipNeq (x y : Reg)
  | setIndex (a : Word)
  | offsetGoto (a : Word)
  | rand (x : Reg) (n : Byte)
  | draw (x y : Reg) (h : Fin 16)
  | skipKey (x : Reg)
  | skipNotKey (x : Reg)
  | getDelay (x : Reg)
  | waitKey (x : Reg)
  | setDelay (x : Reg)
  | setSound (x : Reg)
  | addIndex (x : Reg)
  | setIndexChar (x : Reg)
  | bcd (x : Reg)
  | regDump (x : Reg)
  | regLoad (x : Reg)
deriving DecidableEq, Repr

end Sys2Proof
end

