-- ==== Sys2Proof/WellFormed.lean ====
section
/-! DEFINITION. Which instruction terms are instructions: an Address is "12-bit, values 0–4095" (R73). Every other operand is
bounded by its type. -/

namespace Sys2Proof

/-- An Address operand is below 4096 (R73, R113). -/
def addressOk (a : Word) : Bool := decide (a.toNat < Config.memSize)

/-- The operand ranges of R73. -/
def Instr.wellFormed : Instr → Bool
  | .goto a => addressOk a
  | .call a => addressOk a
  | .setIndex a => addressOk a
  | .offsetGoto a => addressOk a
  | .clearScreen => true
  | .ret => true
  | .skipEqConst _ _ => true
  | .skipNeqConst _ _ => true
  | .skipEq _ _ => true
  | .setConst _ _ => true
  | .addConst _ _ => true
  | .set _ _ => true
  | .or _ _ => true
  | .and _ _ => true
  | .xor _ _ => true
  | .add _ _ => true
  | .sub _ _ => true
  | .shr _ => true
  | .inverseSub _ _ => true
  | .shl _ => true
  | .skipNeq _ _ => true
  | .rand _ _ => true
  | .draw _ _ _ => true
  | .skipKey _ => true
  | .skipNotKey _ => true
  | .getDelay _ => true
  | .waitKey _ => true
  | .setDelay _ => true
  | .setSound _ => true
  | .addIndex _ => true
  | .setIndexChar _ => true
  | .bcd _ => true
  | .regDump _ => true
  | .regLoad _ => true

end Sys2Proof
end

