-- ==== Sys2Proof/Decode.lean ====
section
/-! DEFINITION. The decoder (R70 to R80), total on any bytes, the encoder (R81), and the opcode table of R76 as rows of mask and match. -/

namespace Sys2Proof

/-- "nibble range [start, end] (inclusive) of a 16-bit number", nibble 0 the most significant (R8). -/
def nib (op : Word) (s e : Nat) : Nat :=
  (op.toNat >>> (4 * (3 - e))) &&& ((1 <<< (4 * (e - s + 1))) - 1)

/-- The Address operand `A` = `op[11:0]`, zero-extended (R73). -/
def fieldA (op : Word) : Word := BitVec.ofNat 16 (nib op 1 3)

/-- The Number operand `N` = `op[7:0]` (R73). -/
def fieldN (op : Word) : Byte := BitVec.ofNat 8 (nib op 2 3)

/-- The Register operand `X` = `op[11:8]` (R73). -/
def fieldX (op : Word) : Reg := Fin.ofNat 16 (nib op 1 1)

/-- The Register operand `Y` = `op[7:4]` (R73). -/
def fieldY (op : Word) : Reg := Fin.ofNat 16 (nib op 2 2)

/-- The sprite height `H` = `op[3:0]` (R73). -/
def fieldH (op : Word) : Fin 16 := Fin.ofNat 16 (nib op 3 3)

/-- Why bytes do not decode. -/
inductive DecodeError where
  /-- The opcode matches no pattern of R76 (R77). It carries the opcode, as R74's "opcode's hexadecimal text". -/
  | noPattern (op : Word)
  /-- Fewer than two bytes: there is no "valid 2-byte opcode" (R93). -/
  | noOpcode
deriving DecidableEq, Repr

/-- The nine sub-operations under high nibble 8, selected by the low nibble (R75). -/
def decode8 (op : Word) : Except DecodeError Instr :=
  match nib op 3 3 with
  | 0x0 => .ok (.set (fieldX op) (fieldY op))
  | 0x1 => .ok (.or (fieldX op) (fieldY op))
  | 0x2 => .ok (.and (fieldX op) (fieldY op))
  | 0x3 => .ok (.xor (fieldX op) (fieldY op))
  | 0x4 => .ok (.add (fieldX op) (fieldY op))
  | 0x5 => .ok (.sub (fieldX op) (fieldY op))
  | 0x6 => .ok (.shr (fieldX op))
  | 0x7 => .ok (.inverseSub (fieldX op) (fieldY op))
  | 0xE => .ok (.shl (fieldX op))
  | _ => .error (.noPattern op)

/-- The key skips under high nibble E, selected by the low byte (R75). -/
def decodeE (op : Word) : Except DecodeError Instr :=
  match nib op 2 3 with
  | 0x9E => .ok (.skipKey (fieldX op))
  | 0xA1 => .ok (.skipNotKey (fieldX op))
  | _ => .error (.noPattern op)

/-- The "timer/key/memory operations" under high nibble F, selected by the low byte (R75). -/
def decodeF (op : Word) : Except DecodeError Instr :=
  match nib op 2 3 with
  | 0x07 => .ok (.getDelay (fieldX op))
  | 0x0A => .ok (.waitKey (fieldX op))
  | 0x15 => .ok (.setDelay (fieldX op))
  | 0x18 => .ok (.setSound (fieldX op))
  | 0x1E => .ok (.addIndex (fieldX op))
  | 0x29 => .ok (.setIndexChar (fieldX op))
  | 0x33 => .ok (.bcd (fieldX op))
  | 0x55 => .ok (.regDump (fieldX op))
  | 0x65 => .ok (.regLoad (fieldX op))
  | _ => .error (.noPattern op)

/-- The decoder of R75: a function of the 16 bits alone. The opcode numbers are the spec's (D1, D2, D3, D4; log 23). -/
def decode (op : Word) : Except DecodeError Instr :=
  match nib op 0 0 with
  | 0x0 =>
    if op = 0x00E0 then .ok .clearScreen
    else if op = 0x00EE then .ok .ret
    else .error (.noPattern op)
  | 0x1 => .ok (.goto (fieldA op))
  | 0x2 => .ok (.call (fieldA op))
  | 0x3 => .ok (.skipEqConst (fieldX op) (fieldN op))
  | 0x4 => .ok (.skipNeqConst (fieldX op) (fieldN op))
  | 0x5 => if nib op 3 3 = 0 then .ok (.skipEq (fieldX op) (fieldY op)) else .error (.noPattern op)
  | 0x6 => .ok (.setConst (fieldX op) (fieldN op))
  | 0x7 => .ok (.addConst (fieldX op) (fieldN op))
  | 0x8 => decode8 op
  | 0x9 => if nib op 3 3 = 0 then .ok (.skipNeq (fieldX op) (fieldY op)) else .error (.noPattern op)
  | 0xA => .ok (.setIndex (fieldA op))
  | 0xB => .ok (.offsetGoto (fieldA op))
  | 0xC => .ok (.rand (fieldX op) (fieldN op))
  | 0xD => .ok (.draw (fieldX op) (fieldY op) (fieldH op))
  | 0xE => decodeE op
  | 0xF => decodeF op
  | _ => .error (.noPattern op)

/-- The 16-bit value of two bytes, the high byte first (R52, R70): `Mem[a] * 256 + Mem[a+1]`. -/
def bigEndian (hi lo : Byte) : Word := BitVec.ofNat 16 (hi.toNat * 256 + lo.toNat)

/-- The two bytes an opcode occupies in memory, the high byte at the lower address (R70). -/
def wordBytes (op : Word) : List Byte := [BitVec.ofNat 8 (op.toNat / 256), BitVec.ofNat 8 op.toNat]

/-- The decoder on bytes: one instruction and the bytes after it, or why not. "every instruction is 2 bytes" (R70). -/
def decodeBytes : List Byte → Except DecodeError (Instr × List Byte)
  | hi :: lo :: rest =>
    match decode (bigEndian hi lo) with
    | .ok i => .ok (i, rest)
    | .error e => .error e
  | _ => .error .noOpcode

/-- The instruction an opcode stands for, as a list of its bytes is decoded; `none` where it is refused. `w` has bit 0 least
significant; the bits above `nbits` are 0. -/
def decodeTableWord (nbits w : Nat) : Option Instr :=
  match decodeBytes (wordBytes (BitVec.ofNat 16 (w % 2 ^ nbits))) with
  | .ok (i, _) => some i
  | .error _ => none

/-- Format A: the major opcode and a 12-bit Address (R72). -/
def formA (base : Nat) (a : Word) : Word := BitVec.ofNat 16 (base ||| a.toNat)

/-- Format XN: the major opcode, a register and a Number (R72). -/
def formXN (base : Nat) (x : Reg) (n : Byte) : Word := BitVec.ofNat 16 (base ||| x.val <<< 8 ||| n.toNat)

/-- Format XY: the major opcode, two registers and the minor opcode (R72). -/
def formXY (base : Nat) (x y : Reg) : Word := BitVec.ofNat 16 (base ||| x.val <<< 8 ||| y.val <<< 4)

/-- Format XYH: the major opcode, two registers and a height (R72). -/
def formXYH (base : Nat) (x y : Reg) (h : Fin 16) : Word :=
  BitVec.ofNat 16 (base ||| x.val <<< 8 ||| y.val <<< 4 ||| h.val)

/-- Format X: the major opcode, a register and the minor opcode in the low byte (R72). -/
def formX (base : Nat) (x : Reg) : Word := BitVec.ofNat 16 (base ||| x.val <<< 8)

/-- The opcode of an instruction: `match` of R76 with the operands put in as R72 places them (R81). The ignored `Y` nibble of
`Shr` and `Shl` is 0 (D32). -/
def encode : Instr → Word
  | .clearScreen => 0x00E0
  | .ret => 0x00EE
  | .goto a => formA 0x1000 a
  | .call a => formA 0x2000 a
  | .skipEqConst x n => formXN 0x3000 x n
  | .skipNeqConst x n => formXN 0x4000 x n
  | .skipEq x y => formXY 0x5000 x y
  | .setConst x n => formXN 0x6000 x n
  | .addConst x n => formXN 0x7000 x n
  | .set x y => formXY 0x8000 x y
  | .or x y => formXY 0x8001 x y
  | .and x y => formXY 0x8002 x y
  | .xor x y => formXY 0x8003 x y
  | .add x y => formXY 0x8004 x y
  | .sub x y => formXY 0x8005 x y
  | .shr x => formX 0x8006 x
  | .inverseSub x y => formXY 0x8007 x y
  | .shl x => formX 0x800E x
  | .skipNeq x y => formXY 0x9000 x y
  | .setIndex a => formA 0xA000 a
  | .offsetGoto a => formA 0xB000 a
  | .rand x n => formXN 0xC000 x n
  | .draw x y h => formXYH 0xD000 x y h
  | .skipKey x => formX 0xE09E x
  | .skipNotKey x => formX 0xE0A1 x
  | .getDelay x => formX 0xF007 x
  | .waitKey x => formX 0xF00A x
  | .setDelay x => formX 0xF015 x
  | .setSound x => formX 0xF018 x
  | .addIndex x => formX 0xF01E x
  | .setIndexChar x => formX 0xF029 x
  | .bcd x => formX 0xF033 x
  | .regDump x => formX 0xF055 x
  | .regLoad x => formX 0xF065 x

/-- The bytes of a program, one opcode after another (R70). -/
def encodeProgram (is : List Instr) : List Byte := is.flatMap fun i => wordBytes (encode i)

/-- One row of the opcode map: an opcode belongs to it when `op & mask = value` (R74, R76). -/
structure OpcodeRow where
  mnemonic : String
  value : Word
  mask : Word
deriving DecidableEq, Repr

/-- `(op & mask) == match` (R74). -/
def OpcodeRow.covers (r : OpcodeRow) (op : Word) : Bool := op &&& r.mask == r.value

/-- The mnemonic of an instruction's row in R76. -/
def Instr.mnemonic : Instr → String
  | .clearScreen => "ClearScreen"
  | .ret => "Return"
  | .goto _ => "Goto"
  | .call _ => "Call"
  | .skipEqConst _ _ => "SkipEqConst"
  | .skipNeqConst _ _ => "SkipNeqConst"
  | .skipEq _ _ => "SkipEq"
  | .setConst _ _ => "SetConst"
  | .addConst _ _ => "AddConst"
  | .set _ _ => "Set"
  | .or _ _ => "Or"
  | .and _ _ => "And"
  | .xor _ _ => "Xor"
  | .add _ _ => "Add"
  | .sub _ _ => "Sub"
  | .shr _ => "Shr"
  | .inverseSub _ _ => "InverseSub"
  | .shl _ => "Shl"
  | .skipNeq _ _ => "SkipNeq"
  | .setIndex _ => "SetIndex"
  | .offsetGoto _ => "OffsetGoto"
  | .rand _ _ => "Rand"
  | .draw _ _ _ => "Draw"
  | .skipKey _ => "SkipKey"
  | .skipNotKey _ => "SkipNotKey"
  | .getDelay _ => "GetDelay"
  | .waitKey _ => "WaitKey"
  | .setDelay _ => "SetDelay"
  | .setSound _ => "SetSound"
  | .addIndex _ => "AddIndex"
  | .setIndexChar _ => "SetIndexChar"
  | .bcd _ => "BCD"
  | .regDump _ => "RegDump"
  | .regLoad _ => "RegLoad"

/-- Rows 1 to 19 of R76. -/
def opcodeRowsLow : List OpcodeRow :=
  [⟨"ClearScreen", 0x00E0, 0xFFFF⟩, ⟨"Return", 0x00EE, 0xFFFF⟩, ⟨"Goto", 0x1000, 0xF000⟩, ⟨"Call", 0x2000, 0xF000⟩,
   ⟨"SkipEqConst", 0x3000, 0xF000⟩, ⟨"SkipNeqConst", 0x4000, 0xF000⟩, ⟨"SkipEq", 0x5000, 0xF00F⟩,
   ⟨"SetConst", 0x6000, 0xF000⟩, ⟨"AddConst", 0x7000, 0xF000⟩] ++
  [⟨"Set", 0x8000, 0xF00F⟩, ⟨"Or", 0x8001, 0xF00F⟩, ⟨"And", 0x8002, 0xF00F⟩, ⟨"Xor", 0x8003, 0xF00F⟩,
   ⟨"Add", 0x8004, 0xF00F⟩, ⟨"Sub", 0x8005, 0xF00F⟩, ⟨"Shr", 0x8006, 0xF00F⟩, ⟨"InverseSub", 0x8007, 0xF00F⟩,
   ⟨"Shl", 0x800E, 0xF00F⟩, ⟨"SkipNeq", 0x9000, 0xF00F⟩]

/-- Rows 20 to 34 of R76. -/
def opcodeRowsHigh : List OpcodeRow :=
  [⟨"SetIndex", 0xA000, 0xF000⟩, ⟨"OffsetGoto", 0xB000, 0xF000⟩, ⟨"Rand", 0xC000, 0xF000⟩, ⟨"Draw", 0xD000, 0xF000⟩,
   ⟨"SkipKey", 0xE09E, 0xF0FF⟩, ⟨"SkipNotKey", 0xE0A1, 0xF0FF⟩] ++
  [⟨"GetDelay", 0xF007, 0xF0FF⟩, ⟨"WaitKey", 0xF00A, 0xF0FF⟩, ⟨"SetDelay", 0xF015, 0xF0FF⟩,
   ⟨"SetSound", 0xF018, 0xF0FF⟩, ⟨"AddIndex", 0xF01E, 0xF0FF⟩, ⟨"SetIndexChar", 0xF029, 0xF0FF⟩,
   ⟨"BCD", 0xF033, 0xF0FF⟩, ⟨"RegDump", 0xF055, 0xF0FF⟩, ⟨"RegLoad", 0xF065, 0xF0FF⟩]

/-- The opcode map of R76: the decoder says the same as these rows, written independently of it. -/
def opcodeTable : List OpcodeRow := opcodeRowsLow ++ opcodeRowsHigh

end Sys2Proof
end

