-- ==== Sys2Proof/Machine/State.lean ====
section
/-! DEFINITION. The state of the core: the tuple of R20, and the model's own record of the host around it. Plain data. -/

namespace Sys2Proof.Machine

/-- `Mem` (R28), as the addresses whose byte differs from the reset contents, strictly rising (`Memory.wf`). -/
abbrev Memory := List Host.Cell

/-- `fb` (R30): row `y` is entry `y`, and its bit `x` is the pixel at column `x`. Row-major: `Frame.rowMajor` (log 27). -/
abbrev Frame := Vector (BitVec Config.displayWidth) Config.displayHeight

/-- The six fault kinds with their payloads (R200, D29). -/
inductive FaultKind where
  /-- Construction: the program is not shorter than `limit` (R231). -/
  | programTooLarge (size limit : Nat)
  /-- Step 3 of a cycle: the opcode at `address` matches no pattern (R201). -/
  | invalidOpcode (opcode address : Word)
  /-- The highest address an instruction forms is 4096 or more; that address, unbounded, and the mnemonic (R202). -/
  | invalidAddress (address : Nat) (name : String)
  /-- SetIndexChar with `V[X] > 15` (R203). -/
  | unknownCharacter (value : Byte)
  /-- SkipKey or SkipNotKey with `V[X] > 15` (R204). -/
  | unknownKey (value : Byte) (name : String)
  /-- Draw: the first position of the sprite rectangle that is off the bitmap (R205, R194). -/
  | pixelOutOfBounds (x y : Nat)
deriving DecidableEq, Repr

/-- The run status (R29). `ended` and `faulted` are terminal. -/
inductive Status where
  | running
  | waiting
  | ended
  | faulted (kind : FaultKind)
deriving DecidableEq, Repr

/-- The step the owner runs next while `status = Running` (R91). -/
inductive Agent where
  | cycle
  | tick
deriving DecidableEq, Repr

/-- A call the core made to the external capability (R216), with what was passed or answered. -/
inductive HostCall where
  /-- `get_keys()` and its answer. -/
  | getKeys (answer : Keys)
  /-- `draw(fb)`. -/
  | draw (frame : Frame)
  /-- `play_sound()`. -/
  | playSound
deriving DecidableEq, Repr

/-- THE MODEL'S OWN, not state of the spec (R34): what the outside will answer and what it has been told. A list that is
empty is followed by the free values of Config, numbered by `drawn` (logs 8 to 11). -/
structure Env where
  /-- The owner's next choices (R91, R213). -/
  schedule : List Agent
  /-- The next answers of `host.get_keys()` (R96, R175). -/
  keyAnswers : List Keys
  /-- The next answers of `draw8()` (R143). -/
  randBytes : List Byte
  /-- How many free values have been taken. -/
  drawn : Nat
  /-- The calls made to the host, newest first (R216). -/
  calls : List HostCall
deriving DecidableEq, Repr

/-- The complete state of the core (R20), and `env`. -/
structure State where
  /-- `V[0..15]` (R21); `V[15]` is VF, also the flag (R22). -/
  v : Vector Byte 16
  /-- `I` (R23). -/
  i : Word
  /-- `PC` (R24). -/
  pc : Word
  /-- The return stack (R25), the newest entry first (log 30). -/
  stack : List Word
  /-- `DT` (R26). -/
  dt : Byte
  /-- `ST` (R27). -/
  st : Byte
  /-- `Mem` (R28). -/
  mem : Memory
  /-- `status` (R29). -/
  status : Status
  /-- `fb` (R30). -/
  fb : Frame
  /-- `redraw` (R31). -/
  redraw : Bool
  /-- `keys[0..15]` (R32). -/
  keys : Keys
  /-- `wait_x` (R33). -/
  waitX : Reg
  /-- `wait_ref[0..15]` (R33). -/
  waitRef : Keys
  /-- The model's own (R34). -/
  env : Env
deriving DecidableEq, Repr

/-- Why a step does not answer a next state. Both are stuck states, no step being enabled (R91, R105), and safe (log 12). -/
inductive Fault where
  /-- Raised by `step` at `status = Ended`: the run is over, not an error (R29, R93). Safe. -/
  | runEnded
  /-- Raised by `step` at `status = Faulted(kind)`: a fatal error ended the run (R206). Safe. -/
  | runFaulted (kind : FaultKind)
deriving DecidableEq, Repr

/-- What the model has no meaning for. -/
inductive Refusal where
  /-- Raised by `exec` for an instruction that is not modelled yet (none is left). Safe. -/
  | notModelled (mnemonic : String)
deriving DecidableEq, Repr

/-- An environment that has promised nothing and been told nothing (DESIGN CHOICE, logs 8 to 11). -/
def Env.reset : Env :=
  { schedule := [], keyAnswers := [], randBytes := [], drawn := 0, calls := [] }

/-- The machine right after reset with the empty program (R37, R232, R234; logs 1, 15): every field at R37's value; `waitX`
and `waitRef`, which R37 gives "no meaning", 0 (DESIGN CHOICE, log 2). -/
def State.reset : State :=
  { v := Vector.replicate 16 0
    i := 0
    pc := 0x200
    stack := []
    dt := 0
    st := 0
    mem := []
    status := .running
    fb := Vector.replicate Config.displayHeight 0
    redraw := false
    keys := 0
    waitX := 0
    waitRef := 0
    env := Env.reset }

end Sys2Proof.Machine
end

