-- ==== Sys2Proof/Machine/Ops.lean ====
section
/-! DEFINITION. The named operations over memory, registers, the bitmap, the status and the host: each register and store has
one home, and every meaning goes through these. -/

namespace Sys2Proof.Machine

/-! ## Configuration, as the machine reads it -/

/-- `FONT_BASE` (R6). -/
def fontBase : Nat := Config.fontBase.val

/-- Byte `j` of `FONT_DATA` (R36). -/
def fontByte (j : Nat) : Byte := (Config.fontGlyphs.flatten[j]?).getD 0

/-! ## Memory -/

/-- What an address that nothing has written reads as: the reset contents of R53 with no program loaded, the font at
`FONT_BASE` and 0x00 elsewhere (the spec's D11, log 4). -/
def resetByte (a : Nat) : Byte :=
  if Config.programBase ≤ a then 0
  else if fontBase ≤ a ∧ a < fontBase + Config.fontSize then fontByte (a - fontBase)
  else 0

/-- `MemRead(addr, 1)` (R9): the byte last written there (R60), or the reset contents. -/
def Memory.read : Memory → Nat → Byte
  | [], a => resetByte a
  | (b, w) :: rest, a => if a = b then w else Memory.read rest a

/-- `MemWrite(addr, 1, v)` (R9), keeping the canonical form `Memory.wf`. -/
def Memory.write : Memory → Nat → Byte → Memory
  | [], a, w => if w = resetByte a then [] else [(a, w)]
  | (b, u) :: rest, a, w =>
    if a < b then (if w = resetByte a then (b, u) :: rest else (a, w) :: (b, u) :: rest)
    else if a = b then (if w = resetByte a then rest else (a, w) :: rest)
    else (b, u) :: Memory.write rest a w

/-- Bytes written one at a time at ascending addresses (R54). -/
def Memory.storeBytes : Memory → Nat → List Byte → Memory
  | m, _, [] => m
  | m, a, b :: bs => Memory.storeBytes (m.write a b) (a + 1) bs

/-- Canonical from address `lo` on: addresses strictly rising, inside `Mem` (R51), and no entry equal to the reset contents. -/
def Memory.wfFrom : Nat → Memory → Bool
  | _, [] => true
  | lo, (a, w) :: rest =>
    decide (lo ≤ a) && decide (a < Config.memSize) && decide (w ≠ resetByte a) && Memory.wfFrom (a + 1) rest

/-- The canonical form of memory: equal memories are equal data. -/
def Memory.wf (m : Memory) : Bool := m.wfFrom 0

/-- `MemRead(addr, 2)` (R9): big-endian, used only by fetch (R52). -/
def Memory.readWord (m : Memory) (a : Nat) : Word := bigEndian (m.read a) (m.read (a + 1))

/-! ## Registers -/

/-- `V[i]` (R9). -/
def State.getV (s : State) (x : Reg) : Byte := s.v.get x

/-- `V[i] <- v` (R9). -/
def State.setV (s : State) (x : Reg) (b : Byte) : State := { s with v := s.v.set x.val b x.isLt }

/-- VF, the flag register (R22). -/
abbrev vf : Reg := 15

/-- A result and the flag: "the result is written first and the flag second" (R101; the spec's D12, log 17). -/
def State.setResultAndFlag (s : State) (x : Reg) (result flag : Byte) : State := (s.setV x result).setV vf flag

/-- `I <- v` (R9). -/
def State.setI (s : State) (w : Word) : State := { s with i := w }

/-- `pc <- target` (R9). -/
def State.jump (s : State) (target : Word) : State := { s with pc := target }

/-- "by default the program counter advances by 2 afterward" (R98). -/
def State.advance (s : State) : State := s.jump (s.pc + 2)

/-- A conditional skip: "4 total (2 base + 2 skip)" if the condition holds, "else by 2" (R99). -/
def State.skipIf (s : State) (c : Bool) : State := s.jump (if c then s.pc + 4 else s.pc + 2)

/-- `push(v)` (R9): the stack is unbounded (R25). -/
def State.push (s : State) (w : Word) : State := { s with stack := w :: s.stack }

/-- `pc <- pop()`, and nothing at all on an empty stack (R112; the spec's D14, log 18). -/
def State.popToPc (s : State) : State :=
  match s.stack with
  | [] => s
  | w :: rest => { s with pc := w, stack := rest }

/-! ## Taking a fault -/

/-- Fault entry (R206): "A fault does exactly one thing to the core: `status <- Faulted(kind, info)`". `PC` still holds the
address of the faulting instruction and nothing else is written (R207, log 13). There is no return from a fault (R214). -/
def State.raise (s : State) (k : FaultKind) : State := { s with status := .faulted k }

/-- The bounds check every instruction that forms an address makes before its first access (R57, R207): `top` is the highest
address, an unbounded integer, and is what the fault reports (R202). -/
def State.checkTop (s : State) (top : Nat) (name : String) (ok : State) : State :=
  if Config.memSize ≤ top then s.raise (.invalidAddress top name) else ok

/-! ## The bitmap -/

/-- `px(x, y)` (R9): false outside the bitmap, which no rule asks for. -/
def Frame.px (fb : Frame) (x y : Nat) : Bool := ((fb[y]?).getD 0).getLsbD x

/-- A row with its pixel at column `x` written. -/
def rowWithPixel (row : BitVec Config.displayWidth) (x : Nat) (b : Bool) : BitVec Config.displayWidth :=
  if b then row ||| BitVec.twoPow Config.displayWidth x else row &&& ~~~(BitVec.twoPow Config.displayWidth x)

/-- `px(x, y) <- b` (R9). -/
def Frame.setPx (fb : Frame) (x y : Nat) (b : Bool) : Frame :=
  fb.setIfInBounds y (rowWithPixel ((fb[y]?).getD 0) x b)

/-- Every pixel unset (R191). -/
def Frame.clear : Frame := Vector.replicate Config.displayHeight 0

/-- The pixels as `host.draw` receives them: "sequence of booleans, row-major" (R30, R102). -/
def Frame.rowMajor (fb : Frame) : List Bool :=
  (List.range Config.displayHeight).flatMap fun y => (List.range Config.displayWidth).map fun x => fb.px x y

/-! ## The host: its answers and its calls (R216) -/

/-- The core calls the host; newest call first. -/
def State.record (s : State) (c : HostCall) : State := { s with env := { s.env with calls := c :: s.env.calls } }

/-- The answer of the `host.get_keys()` call made next: any 16 bits (U2, log 8). -/
def State.nextKeys (s : State) : Keys :=
  match s.env.keyAnswers with
  | [] => Config.freeKeys s.env.drawn
  | k :: _ => k

/-- The environment once that call is made and answered. -/
def State.consumeKeys (s : State) : State :=
  match s.env.keyAnswers with
  | [] => { s with env := { s.env with drawn := s.env.drawn + 1, calls := .getKeys s.nextKeys :: s.env.calls } }
  | _ :: ks => { s with env := { s.env with keyAnswers := ks, calls := .getKeys s.nextKeys :: s.env.calls } }

/-- The byte `draw8()` gives next: any 8 bits (U1, log 9). -/
def State.nextByte (s : State) : Byte :=
  match s.env.randBytes with
  | [] => Config.freeByte s.env.drawn
  | b :: _ => b

/-- The environment once that byte is taken: "fresh at each execution" (R143). -/
def State.consumeByte (s : State) : State :=
  match s.env.randBytes with
  | [] => { s with env := { s.env with drawn := s.env.drawn + 1 } }
  | _ :: bs => { s with env := { s.env with randBytes := bs } }

/-- The owner's next choice between `cycle` and `tick`, free at every point (R91, R213, U3, log 10). -/
def State.nextAgent (s : State) : Agent :=
  match s.env.schedule with
  | [] => if Config.freeChoiceIsTick s.env.drawn then .tick else .cycle
  | a :: _ => a

/-- The environment once that choice is made. -/
def State.consumeAgent (s : State) : State :=
  match s.env.schedule with
  | [] => { s with env := { s.env with drawn := s.env.drawn + 1 } }
  | _ :: rest => { s with env := { s.env with schedule := rest } }

/-- Step 6 of a cycle: if the redraw flag is set, one `host.draw(fb)`; the flag is not cleared (R102, log 25). -/
def State.flush (s : State) : State := if s.redraw then s.record (.draw s.fb) else s

end Sys2Proof.Machine
end

