-- ==== Sys2Proof/Machine/Flags.lean ====
section
/-! DEFINITION. The values written to VF as a flag, "always exactly 0 or 1" (R22), and the 8-bit results they go with (R130). -/

namespace Sys2Proof.Machine

/-- A flag as the byte VF receives (R22). -/
def flagByte (c : Bool) : Byte := if c then 1 else 0

/-- Add: "VF = 1 if unsigned overflow", that is `a + b > 255` over unbounded integers (R137). -/
def addCarry (a b : Byte) : Bool := decide (a.toNat + b.toNat > 255)

/-- Sub: the flag of `a - b` is 0 exactly when it borrows, `a < b` (R138; the spec's C1 and D13, log 16). -/
def noBorrow (a b : Byte) : Bool := decide (b.toNat ≤ a.toNat)

/-- Shr: bit 0 of the value before the shift (R139). -/
def shiftedOutRight (a : Byte) : Bool := a.getLsbD 0

/-- Shl: bit 7 of the value before the shift (R141). -/
def shiftedOutLeft (a : Byte) : Bool := a.getLsbD 7

/-- `(a + b) mod 256` (R130). -/
def wrapAdd (a b : Byte) : Byte := BitVec.ofNat 8 (a.toNat + b.toNat)

/-- `(a - b) mod 256` (R130). -/
def wrapSub (a b : Byte) : Byte := BitVec.ofInt 8 ((a.toNat : Int) - (b.toNat : Int))

/-- `a >> 1`: "bit 7 of the result is 0" (R139). -/
def halve (a : Byte) : Byte := a >>> 1

/-- `(a << 1) mod 256` (R141). -/
def double (a : Byte) : Byte := a <<< 1

end Sys2Proof.Machine
end

