-- ==== Sys2Proof/Machine/Alu.lean ====
section
/-! DEFINITION. The ALU instructions (spec/42_alu.md). -/

namespace Sys2Proof.Machine

/-- What one step of an instruction answers. -/
abbrev Result := Host.Outcome State Fault Refusal

/-- SetConst (R131; log 24). -/
def execSetConst (x : Reg) (n : Byte) (s : State) : Result := .next (s.setV x n).advance

/-- AddConst (R132; log 24): VF is not a flag here. -/
def execAddConst (x : Reg) (n : Byte) (s : State) : Result := .next (s.setV x (wrapAdd (s.getV x) n)).advance

/-- Set (R133; log 24). -/
def execSet (x y : Reg) (s : State) : Result := .next (s.setV x (s.getV y)).advance

/-- Or (R134; logs 19, 24): VF unchanged. -/
def execOr (x y : Reg) (s : State) : Result := .next (s.setV x (s.getV x ||| s.getV y)).advance

/-- And (R135; logs 19, 24): VF unchanged. -/
def execAnd (x y : Reg) (s : State) : Result := .next (s.setV x (s.getV x &&& s.getV y)).advance

/-- Xor (R136; logs 19, 24): VF unchanged. -/
def execXor (x y : Reg) (s : State) : Result := .next (s.setV x (s.getV x ^^^ s.getV y)).advance

/-- Add (R137). -/
def execAdd (x y : Reg) (s : State) : Result :=
  .next (s.setResultAndFlag x (wrapAdd (s.getV x) (s.getV y)) (flagByte (addCarry (s.getV x) (s.getV y)))).advance

/-- Sub (R138). -/
def execSub (x y : Reg) (s : State) : Result :=
  .next (s.setResultAndFlag x (wrapSub (s.getV x) (s.getV y)) (flagByte (noBorrow (s.getV x) (s.getV y)))).advance

/-- InverseSub (R140). -/
def execInverseSub (x y : Reg) (s : State) : Result :=
  .next (s.setResultAndFlag x (wrapSub (s.getV y) (s.getV x)) (flagByte (noBorrow (s.getV y) (s.getV x)))).advance

/-- Shr (R139): the operand is `V[X]` itself. -/
def execShr (x : Reg) (s : State) : Result :=
  .next (s.setResultAndFlag x (halve (s.getV x)) (flagByte (shiftedOutRight (s.getV x)))).advance

/-- Shl (R141). -/
def execShl (x : Reg) (s : State) : Result :=
  .next (s.setResultAndFlag x (double (s.getV x)) (flagByte (shiftedOutLeft (s.getV x)))).advance

/-- Rand (R143; logs 9, 24): `r <- draw8()`, then `r & N`. -/
def execRand (x : Reg) (n : Byte) (s : State) : Result :=
  .next (s.consumeByte.setV x (s.nextByte &&& n)).advance

end Sys2Proof.Machine
end

