-- ==== Sys2Proof/Machine/Operands.lean ====
section
/-! DEFINITION. The operand forms: the one addressing mode `I + k` (R150), key and glyph numbers taken from a register (R170,
R153), and the register ranges of RegDump and RegLoad. All are read before anything is written (R100). -/

namespace Sys2Proof.Machine

/-- The effective address `I + k`: an unbounded integer, "never reduced modulo 4096 or 65536" (R150, R57; the spec's D19, log 35). -/
def State.effAddr (s : State) (k : Nat) : Nat := s.i.toNat + k

/-- The byte at `I + k` (R150). -/
def State.loadAt (s : State) (k : Nat) : Byte := s.mem.read (s.effAddr k)

/-- A register value used as a key or glyph number is the whole value: "15 or less; it is not masked" (R170, R153). -/
def hexDigit (b : Byte) : Bool := decide (b.toNat ≤ 15)

/-- `keys[k]` in the snapshot (R32). -/
def State.keyDown (s : State) (k : Nat) : Bool := s.keys.getLsbD k

/-- The address of glyph `c` (R153): "font base + 5×VX". -/
def glyphAddr (c : Byte) : Word := BitVec.ofNat 16 (fontBase + Config.glyphBytes * c.toNat)

/-- Registers V0 to VX, in ascending order: `X + 1` bytes (R157). -/
def State.lowRegs (s : State) (x : Reg) : List Byte := s.v.toList.take (x.val + 1)

/-- The register file with V0 to VX loaded from `I` on, and the registers above VX unchanged (R158). -/
def State.loadedRegs (s : State) (x : Reg) : Vector Byte 16 :=
  Vector.ofFn fun k : Fin 16 => if k.val ≤ x.val then s.loadAt k.val else s.v.get k

/-- The three decimal digits of a byte, hundreds first, each a whole byte (R155). -/
def decimalDigits (b : Byte) : List Byte :=
  [BitVec.ofNat 8 (b.toNat / 100), BitVec.ofNat 8 (b.toNat / 10 % 10), BitVec.ofNat 8 (b.toNat % 10)]

/-- The target of OffsetGoto, an unbounded integer (R116). -/
def State.offsetTarget (s : State) (a : Word) : Nat := a.toNat + (s.getV 0).toNat

end Sys2Proof.Machine
end

