-- ==== Sys2Proof/Machine/Control.lean ====
section
/-! DEFINITION. Control transfer (spec/41_control_transfer.md): a transfer takes effect at the next fetch (R110). -/

namespace Sys2Proof.Machine

/-- Return (R112): "pop stack into PC; if stack empty, PC unchanged". -/
def execRet (s : State) : Result := .next s.popToPc

/-- Goto (R113): "fails if A ≥ memory size", which no 12-bit Address does (C7). -/
def execGoto (a : Word) (s : State) : Result := .next (s.checkTop a.toNat "Goto" (s.jump a))

/-- Call (R114): pushes `PC + 2` (the spec's C5 and D14, log 18). -/
def execCall (a : Word) (s : State) : Result := .next (s.checkTop a.toNat "Call" ((s.push (s.pc + 2)).jump a))

/-- OffsetGoto (R116): "fails if A + V0 ≥ memory size". -/
def execOffsetGoto (a : Word) (s : State) : Result :=
  .next (s.checkTop (s.offsetTarget a) "OffsetGoto" (s.jump (BitVec.ofNat 16 (s.offsetTarget a))))

/-- SkipEqConst (R117). -/
def execSkipEqConst (x : Reg) (n : Byte) (s : State) : Result := .next (s.skipIf (s.getV x == n))

/-- SkipNeqConst (R118). -/
def execSkipNeqConst (x : Reg) (n : Byte) (s : State) : Result := .next (s.skipIf (s.getV x != n))

/-- SkipEq (R119). -/
def execSkipEq (x y : Reg) (s : State) : Result := .next (s.skipIf (s.getV x == s.getV y))

/-- SkipNeq (R120). -/
def execSkipNeq (x y : Reg) (s : State) : Result := .next (s.skipIf (s.getV x != s.getV y))

end Sys2Proof.Machine
end

