-- ==== Sys2Proof/Machine/Display.lean ====
section
/-! DEFINITION. The display instructions (spec/45_display.md): coordinates are used as they are, sprites neither wrap nor are
clipped (R190; the spec's D20 to D23, log 20). -/

namespace Sys2Proof.Machine

/-- ClearScreen (R191): "zero the bitmap; set redraw flag". -/
def execClearScreen (s : State) : Result := .next { s with fb := Frame.clear, redraw := true }.advance

/-- The positions of an `h`-row sprite at `(x0, y0)`: rows top to bottom, columns left to right (R193). -/
def spritePositions (x0 y0 h : Nat) : List (Nat × Nat) :=
  (List.range h).flatMap fun r => (List.range Config.spriteWidth).map fun c => (x0 + c, y0 + r)

/-- Outside the bitmap (R193). -/
def offBitmap (p : Nat × Nat) : Bool := decide (Config.displayWidth ≤ p.1 ∨ Config.displayHeight ≤ p.2)

/-- "the first offending position in the scan order" (R194): every position of the rectangle counts as touched. -/
def firstOff (x0 y0 h : Nat) : Option (Nat × Nat) := (spritePositions x0 y0 h).find? offBitmap

/-- What Draw has done so far: the bitmap, whether a pixel went from set to unset, whether one changed (R193). -/
structure Blit where
  fb : Frame
  collision : Bool
  changed : Bool
deriving DecidableEq, Repr

/-- One position of a sprite: a bit of 1 inverts its pixel, a bit of 0 leaves it alone (R193). -/
def blitBit (b : Blit) (x y : Nat) (bit : Bool) : Blit :=
  if bit then { fb := b.fb.setPx x y (!b.fb.px x y), collision := b.collision || b.fb.px x y, changed := true } else b

/-- One row of a sprite: bit 7 of its byte is the leftmost pixel (R190; the spec's D8, log 21). -/
def blitRow (b : Blit) (x0 y : Nat) (row : Byte) : Blit :=
  (List.range Config.spriteWidth).foldl (fun acc c => blitBit acc (x0 + c) y (row.getLsbD (7 - c))) b

/-- The rows of a sprite, top row first, one byte each (R193). -/
def blitRows (b : Blit) (x0 y0 : Nat) : List Byte → Blit
  | [] => b
  | row :: rows => blitRows (blitRow b x0 y0 row) x0 (y0 + 1) rows

/-- The `h` bytes of the sprite, `I` to `I + h - 1` (R193, C8). -/
def State.spriteBytes (s : State) (h : Nat) : List Byte := (List.range h).map s.loadAt

/-- The effect of a Draw that passes its checks (R193). -/
def State.drawSprite (s : State) (x0 y0 h : Nat) : State :=
  let b := blitRows { fb := s.fb, collision := false, changed := false } x0 y0 (s.spriteBytes h)
  { s with fb := b.fb, redraw := s.redraw || b.changed }.setV vf (flagByte b.collision)

/-- The second check of Draw and its effect (R193, R194). -/
def State.drawChecked (s : State) (x0 y0 h : Nat) : State :=
  match firstOff x0 y0 h with
  | some p => s.raise (.pixelOutOfBounds p.1 p.2)
  | none => (s.drawSprite x0 y0 h).advance

/-- Draw (R193): the address is checked first and the bitmap second, both before anything is written (R194, R209); with
`H = 0` no address is formed. -/
def execDraw (x y : Reg) (h : Fin 16) (s : State) : Result :=
  .next (if h.val = 0 then s.drawChecked (s.getV x).toNat (s.getV y).toNat 0
    else s.checkTop (s.effAddr (h.val - 1)) "Draw" (s.drawChecked (s.getV x).toNat (s.getV y).toNat h.val))

end Sys2Proof.Machine
end

