-- ==== Sys2Proof/Machine/IndexMemory.lean ====
section
/-! DEFINITION. The index register and memory instructions (spec/43_index_memory.md). None of BCD, RegDump, RegLoad changes `I` (R150). -/

namespace Sys2Proof.Machine

/-- SetIndex (R151; log 24). -/
def execSetIndex (a : Word) (s : State) : Result := .next (s.setI a).advance

/-- AddIndex (R152; logs 19, 24): modulo 65536, VF unchanged. -/
def execAddIndex (x : Reg) (s : State) : Result :=
  .next (s.setI (BitVec.ofNat 16 (s.i.toNat + (s.getV x).toNat))).advance

/-- SetIndexChar (R153): "fails if VX > 15". -/
def execSetIndexChar (x : Reg) (s : State) : Result :=
  .next (if hexDigit (s.getV x) then (s.setI (glyphAddr (s.getV x))).advance
    else s.raise (.unknownCharacter (s.getV x)))

/-- BCD (R155): "fails if I+2 ≥ memory size", before any byte is written. -/
def execBcd (x : Reg) (s : State) : Result :=
  .next (s.checkTop (s.effAddr 2) "BCD"
    { s with mem := s.mem.storeBytes (s.effAddr 0) (decimalDigits (s.getV x)) }.advance)

/-- RegDump (R157): V0 to VX at `I` to `I + X`. -/
def execRegDump (x : Reg) (s : State) : Result :=
  .next (s.checkTop (s.effAddr x.val) "RegDump"
    { s with mem := s.mem.storeBytes (s.effAddr 0) (s.lowRegs x) }.advance)

/-- RegLoad (R158): V0 to VX from `I` to `I + X`. -/
def execRegLoad (x : Reg) (s : State) : Result :=
  .next (s.checkTop (s.effAddr x.val) "RegLoad" { s with v := s.loadedRegs x }.advance)

end Sys2Proof.Machine
end

