-- ==== Sys2Proof/Machine/TimersKeys.lean ====
section
/-! DEFINITION. The timer and key instructions (spec/44_timers_keys.md), the `poll` step of WaitKey, and the `tick` step of the
Timer Driver (R211). -/

namespace Sys2Proof.Machine

/-- GetDelay (R171; log 24). -/
def execGetDelay (x : Reg) (s : State) : Result := .next (s.setV x s.dt).advance

/-- SetDelay (R172; log 24). -/
def execSetDelay (x : Reg) (s : State) : Result := .next { s with dt := s.getV x }.advance

/-- SetSound (R173; log 24): it never calls `host.play_sound()`. -/
def execSetSound (x : Reg) (s : State) : Result := .next { s with st := s.getV x }.advance

/-- WaitKey, entry (R174): "the snapshot at entry" is latched and the cycle is suspended; `PC` unchanged. -/
def execWaitKey (x : Reg) (s : State) : Result :=
  .next { s with waitX := x, waitRef := s.keys, status := .waiting }

/-- SkipKey (R176): "fails if VX > 15". -/
def execSkipKey (x : Reg) (s : State) : Result :=
  .next (if hexDigit (s.getV x) then s.skipIf (s.keyDown (s.getV x).toNat)
    else s.raise (.unknownKey (s.getV x) "SkipKey"))

/-- SkipNotKey (R177). -/
def execSkipNotKey (x : Reg) (s : State) : Result :=
  .next (if hexDigit (s.getV x) then s.skipIf (!s.keyDown (s.getV x).toNat)
    else s.raise (.unknownKey (s.getV x) "SkipNotKey"))

/-- The lowest-numbered key that is up in `ref` and down in `now` (R175, `min(S)`; the spec's D25, log 22). -/
def newKey (ref now : Keys) : Option Nat :=
  (List.range 16).find? fun k => !ref.getLsbD k && now.getLsbD k

/-- A poll of WaitKey that has seen the answer `now` (R175): without a new key nothing changes; with one, the register is
written, `PC` advances, the status is Running again and the suspended cycle's step 6 is done. `keys` is not written. -/
def State.pollWith (s : State) (now : Keys) : State :=
  match newKey s.waitRef now with
  | none => s
  | some k => { (s.setV s.waitX (BitVec.ofNat 8 k)).advance with status := .running }.flush

/-- One `poll` (R175): a fresh answer of `host.get_keys()` each time. -/
def State.poll (s : State) : State := s.consumeKeys.pollWith s.nextKeys

/-- A timer counts down and stays at 0 (R211). -/
def countDown (t : Byte) : Byte := if t = 0 then 0 else t - 1

/-- The sound is played by the 1 to 0 transition of `ST` alone (R211, C3). -/
def soundDue (t : Byte) : Bool := t == 1

/-- One `tick` of the Timer Driver (R211). -/
def State.tick (s : State) : State :=
  let t := { s with dt := countDown s.dt, st := countDown s.st }
  if soundDue s.st then t.record .playSound else t

end Sys2Proof.Machine
end

