-- ==== Sys2Proof/Machine/Dispatch.lean ====
section
/-! DEFINITION. The dispatch of R97: the decoded instruction selects one rule, the rule named in its row of R76. -/

namespace Sys2Proof.Machine

/-- Step 5 of a cycle (R97), with `PC` the address of the instruction being executed (R98). -/
def exec (i : Instr) (s : State) : Host.Outcome State Fault Refusal :=
  match i with
  | .clearScreen => Sys2Proof.Machine.execClearScreen s
  | .ret => Sys2Proof.Machine.execRet s
  | .goto a => Sys2Proof.Machine.execGoto a s
  | .call a => Sys2Proof.Machine.execCall a s
  | .skipEqConst x n => Sys2Proof.Machine.execSkipEqConst x n s
  | .skipNeqConst x n => Sys2Proof.Machine.execSkipNeqConst x n s
  | .skipEq x y => Sys2Proof.Machine.execSkipEq x y s
  | .setConst x n => Sys2Proof.Machine.execSetConst x n s
  | .addConst x n => Sys2Proof.Machine.execAddConst x n s
  | .set x y => Sys2Proof.Machine.execSet x y s
  | .or x y => Sys2Proof.Machine.execOr x y s
  | .and x y => Sys2Proof.Machine.execAnd x y s
  | .xor x y => Sys2Proof.Machine.execXor x y s
  | .add x y => Sys2Proof.Machine.execAdd x y s
  | .sub x y => Sys2Proof.Machine.execSub x y s
  | .shr x => Sys2Proof.Machine.execShr x s
  | .inverseSub x y => Sys2Proof.Machine.execInverseSub x y s
  | .shl x => Sys2Proof.Machine.execShl x s
  | .skipNeq x y => Sys2Proof.Machine.execSkipNeq x y s
  | .setIndex a => Sys2Proof.Machine.execSetIndex a s
  | .offsetGoto a => Sys2Proof.Machine.execOffsetGoto a s
  | .rand x n => Sys2Proof.Machine.execRand x n s
  | .draw x y h => Sys2Proof.Machine.execDraw x y h s
  | .skipKey x => Sys2Proof.Machine.execSkipKey x s
  | .skipNotKey x => Sys2Proof.Machine.execSkipNotKey x s
  | .getDelay x => Sys2Proof.Machine.execGetDelay x s
  | .waitKey x => Sys2Proof.Machine.execWaitKey x s
  | .setDelay x => Sys2Proof.Machine.execSetDelay x s
  | .setSound x => Sys2Proof.Machine.execSetSound x s
  | .addIndex x => Sys2Proof.Machine.execAddIndex x s
  | .setIndexChar x => Sys2Proof.Machine.execSetIndexChar x s
  | .bcd x => Sys2Proof.Machine.execBcd x s
  | .regDump x => Sys2Proof.Machine.execRegDump x s
  | .regLoad x => Sys2Proof.Machine.execRegLoad x s

end Sys2Proof.Machine
end

