-- ==== Sys2Proof/Machine/Cycle.lean ====
section
/-! DEFINITION. The six-step cycle (R92), the choice of the next step (R91), construction (R230 to R232), and a program word
put where the next cycle fetches. -/

namespace Sys2Proof.Machine

/-- Step 1: is there a "valid 2-byte opcode" at `PC` (R93)? The fetch does not wrap (R56). -/
def State.opcodeAtPc (s : State) : Bool := decide (s.pc.toNat + 1 < Config.memSize)

/-- Step 2: "Fetch the big-endian 16-bit opcode at [pc, pc+1]" (R94), from memory as it is now (R63). -/
def State.fetch (s : State) : Word := s.mem.readWord s.pc.toNat

/-- Step 4: all 16 bits of the snapshot are replaced by the answer of one `host.get_keys()` (R96). -/
def State.refreshKeys (s : State) : State := { s.consumeKeys with keys := s.nextKeys }

/-- Step 6 after step 5: a fault skips it (R103) and a WaitKey suspends before it (R104). -/
def State.endOfCycle (s : State) : State :=
  match s.status with
  | .running => s.flush
  | .waiting => s
  | .ended => s
  | .faulted _ => s

/-- Steps 5 and 6 around what the instruction answers. -/
def finishCycle : Host.Outcome State Fault Refusal → Host.Outcome State Fault Refusal
  | .next s => .next s.endOfCycle
  | .fault r => .fault r
  | .refused r => .refused r

/-- One `cycle` (R92). The end of the program is tested before the fetch, and the decode failure comes before the key refresh
(R93, R95, R209). -/
def State.cycle (s : State) : Host.Outcome State Fault Refusal :=
  if s.opcodeAtPc then
    match decode s.fetch with
    | .ok i => finishCycle (exec i s.refreshKeys)
    | .error _ => .next (s.raise (.invalidOpcode s.fetch s.pc))
  else .next { s with status := .ended }

/-- The step the owner chose while `status = Running` (R91, R213). -/
def State.runAgent (s : State) (a : Agent) : Host.Outcome State Fault Refusal :=
  match a with
  | .cycle => s.cycle
  | .tick => .next s.tick

/-- The three kinds of step and when each is enabled (R91): none at `Ended` and `Faulted`, only `poll` at `Waiting` (log 12). -/
def State.oneStep (s : State) : Host.Outcome State Fault Refusal :=
  match s.status with
  | .running => s.consumeAgent.runAgent s.nextAgent
  | .waiting => .next s.poll
  | .ended => .fault .runEnded
  | .faulted k => .fault (.runFaulted k)

/-- Construction from a program (R217, R230): "size must be strictly less than (4096 − 0x200) or load fails" (R231, log 14);
otherwise the program at 0x200 in the state of R37 (R232). The logging toggle has no effect (R220, log 33). -/
def construct (p : List Byte) : State :=
  if p.length < Config.programLimit then
    { State.reset with mem := State.reset.mem.storeBytes Config.programBase p }
  else State.reset.raise (.programTooLarge p.length Config.programLimit)

/-- `w` as the opcode that the very next step fetches, decodes and runs: its bytes at `PC`, a `cycle` as the owner's next
choice, and `Running`; where no fetch is possible at `PC` (R93), at 0x200 (log 15). -/
def State.placeOpcode (s : State) (w : Word) : State :=
  let pc := if s.opcodeAtPc then s.pc else BitVec.ofNat 16 Config.programBase
  { s with
    pc := pc
    mem := s.mem.storeBytes pc.toNat (wordBytes w)
    status := .running
    env := { s.env with schedule := .cycle :: s.env.schedule } }

end Sys2Proof.Machine
end

