-- ==== Sys2Proof/Machine/Step.lean ====
section
/-! DEFINITION. One step of the machine, and a word placed where it fetches; both only call Machine/Cycle.lean. -/

namespace Sys2Proof.Machine

/-- One step (R91): a `cycle`, a `tick` or a `poll`. -/
def step (s : State) : Host.Outcome State Fault Refusal := s.oneStep

/-- `s` with the `nbits`-bit instruction `w` (bit 0 least significant, the bits above `nbits` 0) where `step` fetches next. -/
def State.withFetchWord (s : State) (nbits w : Nat) : State := s.placeOpcode (BitVec.ofNat 16 (w % 2 ^ nbits))

end Sys2Proof.Machine
end

