-- ==== Sys2Proof/Safety.lean ====
section
/-! DEFINITION. What a legal state is, in the terms the claims use: the whole-machine facts the spec's prose gives. -/

namespace Sys2Proof.Machine

/-- Every return address is at most 4096: "it was formed by a Call at `PC <= 4094`" (R112). -/
def State.StackOk (s : State) : Prop := ∀ w ∈ s.stack, w.toNat ≤ 4096

/-- "The largest value `PC` can ever hold is 4098" (R24); while a WaitKey is pending, or after a fault in a cycle, it still
holds the address of an instruction that was fetched, at most 4094 (R174, R207). -/
def State.PcOk (s : State) : Prop :=
  match s.status with
  | .running => s.pc.toNat ≤ 4098
  | .waiting => s.pc.toNat ≤ 4094
  | .ended => 4095 ≤ s.pc.toNat ∧ s.pc.toNat ≤ 4098
  | .faulted _ => s.pc.toNat ≤ 4094

/-- The redraw flag is "set whenever pixels change" and never cleared (R31): while it is clear, the bitmap is as reset left it. -/
def State.BitmapOk (s : State) : Prop := s.redraw = false → s.fb = Frame.clear

/-- The invariant of the machine: canonical memory, and the three facts above. -/
structure State.Inv (s : State) : Prop where
  mem : s.mem.wf = true
  stack : s.StackOk
  pc : s.PcOk
  bitmap : s.BitmapOk

/-- No step is enabled (R29, R105). -/
def Status.terminal : Status → Bool
  | .running => false
  | .waiting => false
  | .ended => true
  | .faulted _ => true

/-- The run has met one of the six fatal errors (R29, R200). -/
def Status.isFaulted : Status → Bool
  | .running => false
  | .waiting => false
  | .ended => false
  | .faulted _ => true

/-- `t` differs from `s` in `PC` alone, every byte of memory reading as before. -/
def PcOnly (s t : State) : Prop := t = { s with pc := t.pc } ∧ ∀ a, t.mem.read a = s.mem.read a

/-- `t` differs from `s` in the general registers and `PC` alone, every byte of memory reading as before. -/
def RegsAndPcOnly (s t : State) : Prop := t = { s with v := t.v, pc := t.pc } ∧ ∀ a, t.mem.read a = s.mem.read a

/-- Key `k` counts for the pending WaitKey: it was up in the entry snapshot and is down in the answer `now` (R175). -/
def State.NewKey (s : State) (now : Keys) (k : Nat) : Prop :=
  k < 16 ∧ s.waitRef.getLsbD k = false ∧ now.getLsbD k = true

/-- The step that the owner runs next is a `cycle` (R91). -/
def State.CycleNext (s : State) : Prop := s.status = .running ∧ s.nextAgent = .cycle

/-- The step that the owner runs next is a `tick` (R91). -/
def State.TickNext (s : State) : Prop := s.status = .running ∧ s.nextAgent = .tick

/-- The state in which step 5 of the next cycle runs: the owner's choice made and the keys refreshed (R96, R97). -/
def State.atStepFive (s : State) : State := s.consumeAgent.refreshKeys

/-- The ordinal of a fault kind, "in the source's order of listing" (R200; the spec's D27): no program can read it. -/
def FaultKind.ordinal : FaultKind → Nat
  | .programTooLarge _ _ => 0
  | .invalidOpcode _ _ => 1
  | .invalidAddress _ _ => 2
  | .unknownCharacter _ => 3
  | .unknownKey _ _ => 4
  | .pixelOutOfBounds _ _ => 5

end Sys2Proof.Machine
end

