-- ==== Sys2Proof/Certificates/Slice0/Obligations.lean ====
section
/-! DEFINITION. The statements for the provers. Each docstring names the rule of spec/ it formalises; where a clause rests on a
decision of the spec (D<n>), on general knowledge the spec marks as such (GK), or on the model's own choice (log <n>), it says so. -/

open Sys2Proof Sys2Proof.Machine

/-! ## Encoding -/

/-- The opcode numbers are the spec's D1 and D2 (log 23). Decoding an encoded well-formed instruction gives it back, as an opcode and
as the two bytes in memory with any bytes after them. -/
def Obligations.DecodeOfEncodeIsTheInstruction : Prop :=
  ∀ i : Instr, i.wellFormed = true →
    decode (encode i) = .ok i ∧
    ∀ rest : List Byte, decodeBytes (wordBytes (encode i) ++ rest) = .ok (i, rest)

/-- The other direction (D1, D2, D32): a decoded instruction is well-formed and encodes to the opcode it came from, but for the
ignored `Y` nibble of Shr and Shl, which the encoder makes 0. -/
def Obligations.DecodedInstructionReencodes : Prop :=
  ∀ (op : Word) (i : Instr), decode op = .ok i →
    i.wellFormed = true ∧
    encode i = if op &&& 0xF00F = 0x8006 ∨ op &&& 0xF00F = 0x800E then op &&& 0xFF0F else op

/-- R74, R76, R77 (D1 to D4): the nested switch of the decoder and the table of masks and matches say the same of all 65536 opcodes: an
opcode decodes to an instruction whose own row covers it, and fails, carrying the opcode, exactly when no row covers it. -/
def Obligations.DecoderAgreesWithTheOpcodeTable : Prop :=
  ∀ op : Word,
    (∀ i, decode op = .ok i → ∃ r ∈ opcodeTable, r.covers op = true ∧ r.mnemonic = i.mnemonic) ∧
    ((∀ r ∈ opcodeTable, r.covers op = false) ↔ decode op = .error (.noPattern op))

/-- R74 (D1, D2): "no two patterns match the same opcode", so the order of testing does not matter. -/
def Obligations.NoOpcodeMatchesTwoRows : Prop :=
  ∀ (op : Word), ∀ r ∈ opcodeTable, ∀ r' ∈ opcodeTable, r.covers op = true → r'.covers op = true → r = r'

/-- Words written out from the encodings of R76, one or more for each family, and three illegal ones (R77). 0x00E0, 0x1ABC and the refusal of 0xF3FF are
the source's own; the other opcode numbers are the spec's decisions D1 and D2, the refusals of 0x0000 and 0x5121 its D3 and D4 (log 23). -/
def Obligations.WrittenOutWordsDecode : Prop :=
  decode 0x00E0#16 = .ok .clearScreen ∧ decode 0x1ABC#16 = .ok (.goto 0xABC) ∧
  decode 0x3A7F#16 = .ok (.skipEqConst 10 0x7F) ∧ decode 0x8AB5#16 = .ok (.sub 10 11) ∧
  decode 0xC3F0#16 = .ok (.rand 3 0xF0) ∧ decode 0xD015#16 = .ok (.draw 0 1 5) ∧
  decode 0xEFA1#16 = .ok (.skipNotKey 15) ∧ decode 0xF318#16 = .ok (.setSound 3) ∧
  decode 0xFF65#16 = .ok (.regLoad 15) ∧ decode 0x0000#16 = .error (.noPattern 0) ∧
  decode 0x5121#16 = .error (.noPattern 0x5121) ∧ decode 0xF3FF#16 = .error (.noPattern 0xF3FF)

/-- R78 (the number of Shl is the spec's D1 and D2): every value of the `Y` nibble gives the same Shr or Shl, and no other instruction has an ignored field: two opcodes that decode
to the same instruction and differ are both a Shr or both a Shl. -/
def Obligations.OnlyShiftsIgnoreANibble : Prop :=
  (∀ x y : Reg, decode (formXY 0x8006 x y) = .ok (.shr x) ∧ decode (formXY 0x800E x y) = .ok (.shl x)) ∧
  ∀ (op op' : Word) (i : Instr), decode op = .ok i → decode op' = .ok i → op ≠ op' → ∃ x, i = .shr x ∨ i = .shl x

/-! ## ALU -/

/-- R131, R133 (GK, D2): SetConst and Set write one register and advance; nothing else changes. -/
def Obligations.LoadsWriteOneRegister : Prop :=
  (∀ (x : Reg) (n : Byte) (s : State), ∃ t, exec (.setConst x n) s = .next t ∧
    t.getV x = n ∧ (∀ k, k ≠ x → t.getV k = s.getV k) ∧ t.pc = s.pc + 2 ∧ RegsAndPcOnly s t) ∧
  ∀ (x y : Reg) (s : State), ∃ t, exec (.set x y) s = .next t ∧
    t.getV x = s.getV y ∧ (∀ k, k ≠ x → t.getV k = s.getV k) ∧ t.pc = s.pc + 2 ∧ RegsAndPcOnly s t

/-- R132 (GK, D2): AddConst wraps modulo 256; VF is not a flag here and, like every other register, is unchanged unless it is `X`. -/
def Obligations.AddConstWrapsWithoutFlag : Prop :=
  ∀ (x : Reg) (n : Byte) (s : State), ∃ t, exec (.addConst x n) s = .next t ∧
    (t.getV x).toNat = ((s.getV x).toNat + n.toNat) % 256 ∧
    (∀ k, k ≠ x → t.getV k = s.getV k) ∧ t.pc = s.pc + 2 ∧ RegsAndPcOnly s t

/-- R134, R135, R136 (GK, D2, D17): Or, And and Xor act bit by bit on the operands as read, and leave VF alone unless it is `X`. -/
def Obligations.LogicIsBitwiseWithoutFlag : Prop :=
  ∀ (x y : Reg) (s : State),
    (∃ t, exec (.or x y) s = .next t ∧
      (∀ j, (t.getV x).getLsbD j = ((s.getV x).getLsbD j || (s.getV y).getLsbD j)) ∧
      (∀ k, k ≠ x → t.getV k = s.getV k) ∧ t.pc = s.pc + 2 ∧ RegsAndPcOnly s t) ∧
    (∃ t, exec (.and x y) s = .next t ∧
      (∀ j, (t.getV x).getLsbD j = ((s.getV x).getLsbD j && (s.getV y).getLsbD j)) ∧
      (∀ k, k ≠ x → t.getV k = s.getV k) ∧ t.pc = s.pc + 2 ∧ RegsAndPcOnly s t) ∧
    (∃ t, exec (.xor x y) s = .next t ∧
      (∀ j, (t.getV x).getLsbD j = ((s.getV x).getLsbD j ^^ (s.getV y).getLsbD j)) ∧
      (∀ k, k ≠ x → t.getV k = s.getV k) ∧ t.pc = s.pc + 2 ∧ RegsAndPcOnly s t)

/-- R137, and R101 (D12, log 17) where `X = 15`: "Add sets VF=1 iff a+b > 255 (unsigned); result equals (a+b) mod 256", the flag being
written last. -/
def Obligations.AddGivesSumAndCarry : Prop :=
  ∀ (x y : Reg) (s : State), ∃ t, exec (.add x y) s = .next t ∧
    (x ≠ 15 → (t.getV x).toNat = ((s.getV x).toNat + (s.getV y).toNat) % 256) ∧
    t.getV 15 = (if (s.getV x).toNat + (s.getV y).toNat > 255 then 1 else 0) ∧
    (∀ k, k ≠ x → k ≠ 15 → t.getV k = s.getV k) ∧ t.pc = s.pc + 2 ∧ RegsAndPcOnly s t

/-- R138, R140 (D13, log 16), and R101 (D12, log 17) where `X = 15`: "Sub sets VF=0 iff a < b (borrow); result equals (a−b) mod 256", and
InverseSub the same with the operands exchanged. -/
def Obligations.SubtractionsGiveDifferenceAndBorrow : Prop :=
  ∀ (x y : Reg) (s : State),
    (∃ t, exec (.sub x y) s = .next t ∧
      (x ≠ 15 → (t.getV x).toNat = ((s.getV x).toNat + 256 - (s.getV y).toNat) % 256) ∧
      t.getV 15 = (if (s.getV x).toNat < (s.getV y).toNat then 0 else 1) ∧
      (∀ k, k ≠ x → k ≠ 15 → t.getV k = s.getV k) ∧ t.pc = s.pc + 2 ∧ RegsAndPcOnly s t) ∧
    (∃ t, exec (.inverseSub x y) s = .next t ∧
      (x ≠ 15 → (t.getV x).toNat = ((s.getV y).toNat + 256 - (s.getV x).toNat) % 256) ∧
      t.getV 15 = (if (s.getV y).toNat < (s.getV x).toNat then 0 else 1) ∧
      (∀ k, k ≠ x → k ≠ 15 → t.getV k = s.getV k) ∧ t.pc = s.pc + 2 ∧ RegsAndPcOnly s t)

/-- R139, R141, and R101 (D12, log 17) where `X = 15`: "Shr/Shl capture the pre-shift LSB/MSB into VF, independent of shift result". -/
def Obligations.ShiftsGiveResultAndBitShiftedOut : Prop :=
  ∀ (x : Reg) (s : State),
    (∃ t, exec (.shr x) s = .next t ∧
      (x ≠ 15 → (t.getV x).toNat = (s.getV x).toNat / 2) ∧ (t.getV 15).toNat = (s.getV x).toNat % 2 ∧
      (∀ k, k ≠ x → k ≠ 15 → t.getV k = s.getV k) ∧ t.pc = s.pc + 2 ∧ RegsAndPcOnly s t) ∧
    (∃ t, exec (.shl x) s = .next t ∧
      (x ≠ 15 → (t.getV x).toNat = 2 * (s.getV x).toNat % 256) ∧ (t.getV 15).toNat = (s.getV x).toNat / 128 ∧
      (∀ k, k ≠ x → k ≠ 15 → t.getV k = s.getV k) ∧ t.pc = s.pc + 2 ∧ RegsAndPcOnly s t)

/-- R143 (GK, D2, D26, log 9): Rand writes the byte the environment supplies, masked with `N`, and takes that byte; whatever the byte,
no bit that `N` has clear is set, and where the environment lists the byte it is that one. -/
def Obligations.RandMasksTheSuppliedByte : Prop :=
  ∀ (x : Reg) (n : Byte) (s : State), ∃ t, exec (.rand x n) s = .next t ∧
    (∀ j, n.getLsbD j = false → (t.getV x).getLsbD j = false) ∧
    (∀ b bs, s.env.randBytes = b :: bs → t.getV x = b &&& n ∧ t.env = { s.env with randBytes := bs }) ∧
    t.getV x = s.nextByte &&& n ∧
    (∀ k, k ≠ x → t.getV k = s.getV k) ∧ t.pc = s.pc + 2 ∧
    t = { s with v := t.v, pc := t.pc, env := s.consumeByte.env } ∧ ∀ a, t.mem.read a = s.mem.read a

/-- R22: the value the flag instructions write to VF is "always exactly 0 or 1", Draw's when it does not fault. -/
def Obligations.FlagValuesAreZeroOrOne : Prop :=
  ∀ (i : Instr) (s t : State), i.mnemonic ∈ ["Add", "Sub", "InverseSub", "Shr", "Shl", "Draw"] →
    exec i s = .next t → t.status.isFaulted = false → t.getV 15 = 0 ∨ t.getV 15 = 1

/-! ## Control transfer -/

/-- R113: `pc <- A`, and the check "fails if A ≥ memory size", which no decoded Goto fails (its Address is below 4096). -/
def Obligations.GotoJumps : Prop :=
  ∀ (a : Word) (s : State),
    (a.toNat < 4096 → ∃ t, exec (.goto a) s = .next t ∧ t.pc = a ∧ PcOnly s t) ∧
    (4096 ≤ a.toNat → exec (.goto a) s = .next { s with status := .faulted (.invalidAddress a.toNat "Goto") })

/-- R114 (D14, log 18): Call pushes `PC + 2` and jumps; no register, no byte and no older stack entry changes. -/
def Obligations.CallPushesTheReturnAddress : Prop :=
  ∀ (a : Word) (s : State),
    (a.toNat < 4096 → ∃ t, exec (.call a) s = .next t ∧ t.pc = a ∧ t.stack = (s.pc + 2) :: s.stack ∧
      t = { s with pc := t.pc, stack := t.stack } ∧ ∀ b, t.mem.read b = s.mem.read b) ∧
    (4096 ≤ a.toNat → exec (.call a) s = .next { s with status := .faulted (.invalidAddress a.toNat "Call") })

/-- R112 (D14, log 18): Return loads the newest entry, with no 2 added; on an empty stack nothing at all changes, so the same Return is
fetched again. -/
def Obligations.ReturnPopsOrSpins : Prop :=
  ∀ s : State,
    (∀ w rest, s.stack = w :: rest → ∃ t, exec .ret s = .next t ∧ t.pc = w ∧ t.stack = rest ∧
      t = { s with pc := t.pc, stack := t.stack } ∧ ∀ a, t.mem.read a = s.mem.read a) ∧
    (s.stack = [] → exec .ret s = .next s)

/-- R112, R114 (D14): a Return, whatever ran since the Call, comes back to the instruction after it if the stack is as the Call left it,
and leaves the stack as it was before the Call. -/
def Obligations.ReturnComesBackAfterTheCall : Prop :=
  ∀ (a : Word) (s t u : State), a.toNat < 4096 → exec (.call a) s = .next t → u.stack = t.stack →
    exec .ret u = .next { u with pc := s.pc + 2, stack := s.stack }

/-- R116 (D29 for the payload): `PC = A + V0`, the sum an unbounded integer that faults at 4096 and never wraps. -/
def Obligations.OffsetGotoAddsV0 : Prop :=
  ∀ (a : Word) (s : State),
    (a.toNat + (s.getV 0).toNat < 4096 → ∃ t, exec (.offsetGoto a) s = .next t ∧
      t.pc.toNat = a.toNat + (s.getV 0).toNat ∧ PcOnly s t) ∧
    (4096 ≤ a.toNat + (s.getV 0).toNat → exec (.offsetGoto a) s =
      .next { s with status := .faulted (.invalidAddress (a.toNat + (s.getV 0).toNat) "OffsetGoto") })

/-- R117, R118, R119, R120: the four register skips advance "by 4 total (2 base + 2 skip) exactly when their respective equality
condition holds, else by 2"; nothing but `PC` changes. -/
def Obligations.RegisterSkipsAdvanceByFourOrTwo : Prop :=
  (∀ (x : Reg) (n : Byte) (s : State),
    (∃ t, exec (.skipEqConst x n) s = .next t ∧
      t.pc = (if s.getV x = n then s.pc + 4 else s.pc + 2) ∧ PcOnly s t) ∧
    (∃ t, exec (.skipNeqConst x n) s = .next t ∧
      t.pc = (if s.getV x ≠ n then s.pc + 4 else s.pc + 2) ∧ PcOnly s t)) ∧
  ∀ (x y : Reg) (s : State),
    (∃ t, exec (.skipEq x y) s = .next t ∧
      t.pc = (if s.getV x = s.getV y then s.pc + 4 else s.pc + 2) ∧ PcOnly s t) ∧
    (∃ t, exec (.skipNeq x y) s = .next t ∧
      t.pc = (if s.getV x ≠ s.getV y then s.pc + 4 else s.pc + 2) ∧ PcOnly s t)

/-! ## Index register and memory -/

/-- R151, R152 (GK, D2, D18, log 19): SetIndex loads `I` unchecked, AddIndex adds modulo 65536; no flag, no other register, no byte. -/
def Obligations.IndexWritesAreUnchecked : Prop :=
  (∀ (a : Word) (s : State), ∃ t, exec (.setIndex a) s = .next t ∧ t.i = a ∧ t.pc = s.pc + 2 ∧
    t = { s with i := t.i, pc := t.pc } ∧ ∀ b, t.mem.read b = s.mem.read b) ∧
  ∀ (x : Reg) (s : State), ∃ t, exec (.addIndex x) s = .next t ∧
    t.i.toNat = (s.i.toNat + (s.getV x).toNat) % 65536 ∧ t.pc = s.pc + 2 ∧
    t = { s with i := t.i, pc := t.pc } ∧ ∀ b, t.mem.read b = s.mem.read b

/-- R153: "I = font base + 5×VX" for the whole register value, "fails if VX > 15"; for every placement of the font, which the spec leaves
open (D6, log 5). -/
def Obligations.SetIndexCharPointsAtTheGlyph : Prop :=
  ∀ (x : Reg) (s : State),
    ((s.getV x).toNat ≤ 15 → ∃ t, exec (.setIndexChar x) s = .next t ∧
      t.i.toNat = fontBase + 5 * (s.getV x).toNat ∧ t.pc = s.pc + 2 ∧
      t = { s with i := t.i, pc := t.pc } ∧ ∀ a, t.mem.read a = s.mem.read a) ∧
    (15 < (s.getV x).toNat → exec (.setIndexChar x) s =
      .next { s with status := .faulted (.unknownCharacter (s.getV x)) })

/-- R155: three decimal digits at `I`, `I + 1`, `I + 2`, which recombine to the value; every other byte, every register and `I` unchanged;
"fails if I+2 ≥ memory size" with nothing written. Premise for the bytes read back: memory in canonical form (the model's own, log 4), which every step keeps. -/
def Obligations.BcdStoresThreeDigits : Prop :=
  ∀ (x : Reg) (s : State),
    (s.i.toNat + 2 < 4096 → ∃ t, exec (.bcd x) s = .next t ∧
      (s.mem.wf = true →
        (t.mem.read s.i.toNat).toNat = (s.getV x).toNat / 100 ∧
        (t.mem.read (s.i.toNat + 1)).toNat = (s.getV x).toNat / 10 % 10 ∧
        (t.mem.read (s.i.toNat + 2)).toNat = (s.getV x).toNat % 10 ∧
        100 * (t.mem.read s.i.toNat).toNat + 10 * (t.mem.read (s.i.toNat + 1)).toNat +
          (t.mem.read (s.i.toNat + 2)).toNat = (s.getV x).toNat) ∧
      (∀ a, a < s.i.toNat ∨ s.i.toNat + 2 < a → t.mem.read a = s.mem.read a) ∧
      t.pc = s.pc + 2 ∧ t = { s with mem := t.mem, pc := t.pc }) ∧
    (4096 ≤ s.i.toNat + 2 → exec (.bcd x) s =
      .next { s with status := .faulted (.invalidAddress (s.i.toNat + 2) "BCD") })

/-- R157 (D16, log 19): V0 to VX at `I` to `I + X`, `X + 1` bytes; every other byte, every register and `I` unchanged; "fails if I+X ≥
memory size" with nothing written. Premise for the bytes read back: memory in canonical form (the model's own, log 4). -/
def Obligations.RegDumpStoresTheLowRegisters : Prop :=
  ∀ (x : Reg) (s : State),
    (s.i.toNat + x.val < 4096 → ∃ t, exec (.regDump x) s = .next t ∧
      (s.mem.wf = true → ∀ k : Reg, k.val ≤ x.val → t.mem.read (s.i.toNat + k.val) = s.getV k) ∧
      (∀ a, a < s.i.toNat ∨ s.i.toNat + x.val < a → t.mem.read a = s.mem.read a) ∧
      t.pc = s.pc + 2 ∧ t = { s with mem := t.mem, pc := t.pc }) ∧
    (4096 ≤ s.i.toNat + x.val → exec (.regDump x) s =
      .next { s with status := .faulted (.invalidAddress (s.i.toNat + x.val) "RegDump") })

/-- R158 (D16, log 19): V0 to VX from `I` to `I + X`; registers above VX, `I` and every byte unchanged; "fails if I+X ≥ memory size" with no
register written. -/
def Obligations.RegLoadLoadsTheLowRegisters : Prop :=
  ∀ (x : Reg) (s : State),
    (s.i.toNat + x.val < 4096 → ∃ t, exec (.regLoad x) s = .next t ∧
      (∀ k : Reg, k.val ≤ x.val → t.getV k = s.mem.read (s.i.toNat + k.val)) ∧
      (∀ k : Reg, x.val < k.val → t.getV k = s.getV k) ∧
      t.pc = s.pc + 2 ∧ RegsAndPcOnly s t) ∧
    (4096 ≤ s.i.toNat + x.val → exec (.regLoad x) s =
      .next { s with status := .faulted (.invalidAddress (s.i.toNat + x.val) "RegLoad") })

/-- R159 (derived there from R157, R158; D16): "RegDump then RegLoad from the same address round-trips all 16 registers", whatever ran in
between, if it left `I` and the 16 bytes alone. Premise: memory in canonical form (the model's own, log 4). -/
def Obligations.DumpThenLoadRestoresAllRegisters : Prop :=
  ∀ (s t u : State), s.mem.wf = true → s.i.toNat + 15 < 4096 → exec (.regDump 15) s = .next t →
    u.i = s.i → (∀ k, k ≤ 15 → u.mem.read (s.i.toNat + k) = t.mem.read (s.i.toNat + k)) →
    ∃ w, exec (.regLoad 15) u = .next w ∧ w.v = s.v

/-! ## Timers and keys -/

/-- R171, R172, R173 (GK, D2): GetDelay, SetDelay and SetSound move one byte; SetSound calls nobody. -/
def Obligations.TimerInstructionsMoveOneByte : Prop :=
  ∀ (x : Reg) (s : State),
    (∃ t, exec (.getDelay x) s = .next t ∧ t.getV x = s.dt ∧ (∀ k, k ≠ x → t.getV k = s.getV k) ∧
      t.pc = s.pc + 2 ∧ RegsAndPcOnly s t) ∧
    (∃ t, exec (.setDelay x) s = .next t ∧ t = { s with dt := s.getV x, pc := s.pc + 2 } ∧
      ∀ a, t.mem.read a = s.mem.read a) ∧
    (∃ t, exec (.setSound x) s = .next t ∧ t = { s with st := s.getV x, pc := s.pc + 2 } ∧
      ∀ a, t.mem.read a = s.mem.read a)

/-- R174 (D25, log 22): WaitKey latches its register and the snapshot at entry and suspends its cycle with `PC` unchanged; from there the
only step is a poll, so `DT` and `ST` stand still. -/
def Obligations.WaitKeySuspendsItsCycle : Prop :=
  ∀ (x : Reg) (s : State), ∃ t, exec (.waitKey x) s = .next t ∧
    t.waitX = x ∧ t.waitRef = s.keys ∧ t.status = .waiting ∧
    t = { s with waitX := t.waitX, waitRef := t.waitRef, status := t.status } ∧
    (∀ a, t.mem.read a = s.mem.read a) ∧
    ∃ u, step t = .next u ∧ u.dt = s.dt ∧ u.st = s.st ∧ (u.status = .waiting → u.pc = s.pc)

/-- R176, R177: skip if key VX is, or is not, down in the snapshot; "fails if VX > 15", the value not being masked. -/
def Obligations.KeySkipsReadTheSnapshot : Prop :=
  ∀ (x : Reg) (s : State),
    ((s.getV x).toNat ≤ 15 →
      (∃ t, exec (.skipKey x) s = .next t ∧
        t.pc = (if s.keys.getLsbD (s.getV x).toNat = true then s.pc + 4 else s.pc + 2) ∧ PcOnly s t) ∧
      (∃ t, exec (.skipNotKey x) s = .next t ∧
        t.pc = (if s.keys.getLsbD (s.getV x).toNat = false then s.pc + 4 else s.pc + 2) ∧ PcOnly s t)) ∧
    (15 < (s.getV x).toNat →
      exec (.skipKey x) s = .next { s with status := .faulted (.unknownKey (s.getV x) "SkipKey") } ∧
      exec (.skipNotKey x) s = .next { s with status := .faulted (.unknownKey (s.getV x) "SkipNotKey") })

/-- R175 (D25, log 22): a poll asks for the keys once; without a key that was up at entry and is down now nothing else changes; with one, the
lowest-numbered goes to the latched register, `PC` advances by 2, the status is Running, and the suspended cycle's flush is done. -/
def Obligations.PollCompletesOnTheLowestNewKey : Prop :=
  ∀ s : State, s.status = .waiting →
    ((∀ k, ¬ s.NewKey s.nextKeys k) →
      step s = .next { s with env := s.consumeKeys.env } ∧ s.consumeKeys.env.calls = .getKeys s.nextKeys :: s.env.calls) ∧
    ∀ k, s.NewKey s.nextKeys k → (∀ j, j < k → ¬ s.NewKey s.nextKeys j) →
      ∃ t, step s = .next t ∧ (t.getV s.waitX).toNat = k ∧ (∀ r, r ≠ s.waitX → t.getV r = s.getV r) ∧
        t.pc = s.pc + 2 ∧ t.status = .running ∧
        t.env.calls = (if s.redraw then [.draw s.fb] else []) ++ .getKeys s.nextKeys :: s.env.calls ∧
        t = { s with v := t.v, pc := t.pc, status := t.status, env := t.env }

/-- R221: "The one wait state is `status = Waiting`": all state survives it, the timers are frozen, and only a poll that sees a new key
ends it. -/
def Obligations.WaitingFreezesTheMachine : Prop :=
  ∀ s : State, s.status = .waiting → ∃ t, step s = .next t ∧
    t = { s with v := t.v, pc := t.pc, status := t.status, env := t.env } ∧ t.dt = s.dt ∧ t.st = s.st ∧
    (t.status = .waiting ∧ t.v = s.v ∧ t.pc = s.pc ∨
      t.status = .running ∧ ∃ k, s.NewKey s.nextKeys k)

/-- R211: "if delay timer > 0, decrement it. If sound timer > 0, decrement it; if it reaches exactly 0 as a result, invoke the external
sound-play capability exactly once"; a timer at 0 stays at 0, and nothing else changes. -/
def Obligations.TickCountsBothTimersDown : Prop :=
  ∀ s : State, s.TickNext → ∃ t, step s = .next t ∧
    t.dt.toNat = s.dt.toNat - 1 ∧ t.st.toNat = s.st.toNat - 1 ∧
    t.env.calls = (if s.st = 1 then [.playSound] else []) ++ s.env.calls ∧
    t = { s with dt := t.dt, st := t.st, env := t.env } ∧ ∀ a, t.mem.read a = s.mem.read a

/-- R216, R211: the sound is played by a tick that takes `ST` from 1 to 0 and by no other step of the machine. -/
def Obligations.OnlyATickPlaysTheSound : Prop :=
  ∀ s t : State, step s = .next t →
    t.env.calls.count .playSound = s.env.calls.count .playSound + (if s.nextAgent = .tick ∧ s.status = .running ∧ s.st = 1 then 1 else 0)

/-! ## Display -/

/-- R191: "zero the bitmap; set redraw flag"; VF and everything else unchanged. -/
def Obligations.ClearScreenClears : Prop :=
  ∀ s : State, ∃ t, exec .clearScreen s = .next t ∧
    (∀ x y, x < 64 → y < 32 → t.fb.px x y = false) ∧ t.redraw = true ∧ t.pc = s.pc + 2 ∧
    t = { s with fb := t.fb, redraw := t.redraw, pc := t.pc } ∧ ∀ a, t.mem.read a = s.mem.read a

/-- R193 (D8, D20 to D23, logs 20, 21): a Draw whose bytes and whose rectangle are inside (with `H = 0` there is neither) inverts each pixel under
a 1 bit, bit 7 leftmost, and no other (R195 c); VF is 1 iff a pixel went from set to unset; redraw is set iff a pixel changed, or was set. -/
def Obligations.DrawInvertsThePixelsUnderTheSprite : Prop :=
  ∀ (x y : Reg) (h : Fin 16) (s : State),
    (h.val = 0 ∨ (s.i.toNat + h.val ≤ 4096 ∧ (s.getV x).toNat + 8 ≤ 64 ∧ (s.getV y).toNat + h.val ≤ 32)) →
    ∃ t, exec (.draw x y h) s = .next t ∧
      (∀ r c, r < h.val → c < 8 → t.fb.px ((s.getV x).toNat + c) ((s.getV y).toNat + r) =
        (s.fb.px ((s.getV x).toNat + c) ((s.getV y).toNat + r) ^^ (s.mem.read (s.i.toNat + r)).getLsbD (7 - c))) ∧
      (∀ px py, (px < (s.getV x).toNat ∨ (s.getV x).toNat + 8 ≤ px ∨ py < (s.getV y).toNat ∨ (s.getV y).toNat + h.val ≤ py) →
        t.fb.px px py = s.fb.px px py) ∧
      (t.getV 15 = 0 ∨ t.getV 15 = 1) ∧
      (t.getV 15 = 1 ↔ ∃ r c, r < h.val ∧ c < 8 ∧ (s.mem.read (s.i.toNat + r)).getLsbD (7 - c) = true ∧
        s.fb.px ((s.getV x).toNat + c) ((s.getV y).toNat + r) = true) ∧
      (t.redraw = true ↔ s.redraw = true ∨ ∃ r c, r < h.val ∧ c < 8 ∧ (s.mem.read (s.i.toNat + r)).getLsbD (7 - c) = true) ∧
      (∀ k, k ≠ 15 → t.getV k = s.getV k) ∧ t.pc = s.pc + 2 ∧
      t = { s with v := t.v, fb := t.fb, redraw := t.redraw, pc := t.pc } ∧ ∀ a, t.mem.read a = s.mem.read a

/-- R194 (D20, D21, D28, log 20): both faults of Draw, the address first; the first offending position in scan order is `(x0, y0)` when the whole
origin is off, else `(64, y0)`, else `(x0, 32)`; nothing is drawn. -/
def Obligations.DrawFaultsBeforeItDraws : Prop :=
  ∀ (x y : Reg) (h : Fin 16) (s : State), h.val ≠ 0 →
    (4096 ≤ s.i.toNat + h.val - 1 → exec (.draw x y h) s =
      .next { s with status := .faulted (.invalidAddress (s.i.toNat + h.val - 1) "Draw") }) ∧
    (s.i.toNat + h.val - 1 < 4096 → (56 < (s.getV x).toNat ∨ 32 < (s.getV y).toNat + h.val) → ∀ px py : Nat,
      (px, py) = (if 32 ≤ (s.getV y).toNat ∨ 64 ≤ (s.getV x).toNat then ((s.getV x).toNat, (s.getV y).toNat)
        else if 56 < (s.getV x).toNat then (64, (s.getV y).toNat) else ((s.getV x).toNat, 32)) →
      exec (.draw x y h) s = .next { s with status := .faulted (.pixelOutOfBounds px py) })

/-- R195 (derived there from R193; D8, D20 to D23): a second identical Draw restores the bitmap, and its VF is 1 exactly when some pixel under a 1 bit
was clear before the first; `X` and `Y` are not VF, whose first flag would move the second sprite. -/
def Obligations.DrawingTwiceRestoresTheBitmap : Prop :=
  ∀ (x y : Reg) (h : Fin 16) (s t : State), x ≠ 15 → y ≠ 15 →
    exec (.draw x y h) s = .next t → t.status.isFaulted = false →
    ∃ u, exec (.draw x y h) t = .next u ∧ u.fb = s.fb ∧
      (u.getV 15 = 1 ↔ ∃ r c, r < h.val ∧ c < 8 ∧ (s.mem.read (s.i.toNat + r)).getLsbD (7 - c) = true ∧
        s.fb.px ((s.getV x).toNat + c) ((s.getV y).toNat + r) = false)

/-- R30 (D5, logs 7, 27): the pixels in row-major order are 2048, and "the pixel at column x and row y is element y * DISPLAY_WIDTH + x". -/
def Obligations.BitmapIsRowMajor : Prop :=
  ∀ fb : Machine.Frame, fb.rowMajor.length = 2048 ∧
    ∀ x y, x < 64 → y < 32 → fb.rowMajor[y * 64 + x]? = some (fb.px x y)

/-! ## The cycle -/

/-- R93: "If the program counter has no valid 2-byte opcode at its position (out of bounds), mark the machine 'program ended' and perform no further
work this cycle": no key refresh, no flush, no `PC` change. -/
def Obligations.CycleWithoutAnOpcodeEndsTheRun : Prop :=
  ∀ s : State, s.CycleNext → 4095 ≤ s.pc.toNat → step s = .next { s.consumeAgent with status := .ended } ∧
    s.consumeAgent.env.calls = s.env.calls

/-- R95: when the opcode matches no pattern, `InvalidOpcode(op, PC)` is raised and steps 4, 5 and 6 do not run. -/
def Obligations.IllegalOpcodeFaultsBeforeTheKeyRefresh : Prop :=
  ∀ (s : State) (e : DecodeError), s.CycleNext → s.pc.toNat ≤ 4094 → decode (s.mem.readWord s.pc.toNat) = .error e →
    step s = .next { s.consumeAgent with status := .faulted (.invalidOpcode (s.mem.readWord s.pc.toNat) s.pc) } ∧
    s.consumeAgent.env.calls = s.env.calls

/-- A step runs the decoded instruction (R92, R94, R96, R97, R102): with a `cycle` next and the two bytes at `PC` those of a well-formed
instruction, or with an opcode there that decodes to it, the step is `exec` of it in the state with the keys refreshed, followed by the flush if
the status is then Running and redraw is set. -/
def Obligations.StepRunsTheDecodedInstruction : Prop :=
  ∀ (s : State) (i : Instr), s.CycleNext → s.pc.toNat ≤ 4094 →
    (decode (s.mem.readWord s.pc.toNat) = .ok i ∨
      i.wellFormed = true ∧ [s.mem.read s.pc.toNat, s.mem.read (s.pc.toNat + 1)] = wordBytes (encode i)) →
    ∃ t, exec i s.atStepFive = .next t ∧ s.atStepFive.keys = s.consumeAgent.nextKeys ∧
      s.atStepFive = { s with keys := s.atStepFive.keys, env := s.atStepFive.env } ∧
      step s = .next (if t.status = .running ∧ t.redraw = true then
        { t with env := { t.env with calls := .draw t.fb :: t.env.calls } } else t)

/-- R102, R96: in a cycle that runs to its end the host is asked for the keys once, and then, "If the redraw flag is set", shown the pixel buffer "exactly
once"; the flag is not cleared by it. -/
def Obligations.CycleFlushesOnceWhenRedrawIsSet : Prop :=
  ∀ (s t : State) (i : Instr), s.CycleNext → s.pc.toNat ≤ 4094 → decode (s.mem.readWord s.pc.toNat) = .ok i →
    step s = .next t → t.status = .running →
    t.env.calls = (if t.redraw then [.draw t.fb] else []) ++ .getKeys s.consumeAgent.nextKeys :: s.env.calls

/-- R103, R207 (D27, log 13): a fault of the executed rule skips the flush and keeps the key refresh of step 4; "none of the instruction's writes is kept". -/
def Obligations.FaultInACycleKeepsOnlyTheKeyRefresh : Prop :=
  ∀ (s t : State) (i : Instr), s.CycleNext → s.pc.toNat ≤ 4094 → decode (s.mem.readWord s.pc.toNat) = .ok i →
    step s = .next t → t.status.isFaulted = true →
    t = { s with status := t.status, keys := s.consumeAgent.nextKeys, env := t.env } ∧
    t.env.calls = .getKeys s.consumeAgent.nextKeys :: s.env.calls

/-- R207 (D27, log 13): every instruction makes all its checks before its first write, so one that faults changes the status and nothing else. -/
def Obligations.FaultingInstructionWritesNothing : Prop :=
  ∀ (i : Instr) (s t : State), s.status.isFaulted = false → exec i s = .next t → t.status.isFaulted = true →
    t = { s with status := t.status } ∧ ∀ a, t.mem.read a = s.mem.read a

/-- R200: only the instructions of its table fault, each with the kinds the table gives it; a well-formed Goto or Call never does. -/
def Obligations.OnlyTheListedInstructionsFault : Prop :=
  ∀ (i : Instr) (s t : State) (k : FaultKind), i.wellFormed = true → s.status.isFaulted = false →
    exec i s = .next t → t.status = .faulted k →
    (∃ a, k = .invalidAddress a i.mnemonic ∧ 4096 ≤ a ∧ i.mnemonic ∈ ["BCD", "RegDump", "RegLoad", "Draw", "OffsetGoto"]) ∨
    (∃ b, k = .unknownCharacter b ∧ 15 < b.toNat ∧ i.mnemonic = "SetIndexChar") ∨
    (∃ b, k = .unknownKey b i.mnemonic ∧ 15 < b.toNat ∧ i.mnemonic ∈ ["SkipKey", "SkipNotKey"]) ∨
    (∃ x y, k = .pixelOutOfBounds x y ∧ (64 ≤ x ∨ 32 ≤ y) ∧ i.mnemonic = "Draw")

/-- R91, R97: no instruction stops the machine, and at Running and at Waiting a step always answers a next state. -/
def Obligations.EveryEnabledStepAnswers : Prop :=
  (∀ (i : Instr) (s : State), ∃ t, exec i s = .next t) ∧
  ∀ s : State, s.status.terminal = false → ∃ t, step s = .next t

/-- R29, R91, R105 (D27; the form of the stop is the model's, log 12): at Ended and at Faulted no step is enabled. -/
def Obligations.TerminalStatusEnablesNoStep : Prop :=
  ∀ s : State, (s.status = .ended → step s = .fault .runEnded) ∧ ∀ k, s.status = .faulted k → step s = .fault (.runFaulted k)

/-- R38 (derived there; D2, D16 to D18, logs 19, 24): who writes what; an instruction that the access matrix does not list for a piece of state leaves it
alone. Three clauses go beyond R38: WaitKey, which R38 lists as writing `V[X]`, writes no register itself (R174), the completing poll does (R175); only
WaitKey writes the latch, which has no column (R33, R174; D25, log 22); only Rand takes anything from the model's own `env` (R143, R216; logs 9, 11). -/
def Obligations.AccessMatrixIsRespected : Prop :=
  ∀ (i : Instr) (s t : State), exec i s = .next t →
    (i.mnemonic ∉ ["Call", "Return"] → t.stack = s.stack) ∧
    (i.mnemonic ∉ ["SetIndex", "AddIndex", "SetIndexChar"] → t.i = s.i) ∧
    (i.mnemonic ≠ "SetDelay" → t.dt = s.dt) ∧ (i.mnemonic ≠ "SetSound" → t.st = s.st) ∧
    (i.mnemonic ∉ ["BCD", "RegDump"] → ∀ a, t.mem.read a = s.mem.read a) ∧
    (i.mnemonic ∉ ["ClearScreen", "Draw"] → t.fb = s.fb ∧ t.redraw = s.redraw) ∧
    (i.mnemonic ∈ ["ClearScreen", "Return", "Goto", "Call", "SkipEqConst", "SkipNeqConst", "SkipEq", "SkipNeq", "SetIndex", "OffsetGoto",
      "SkipKey", "SkipNotKey", "WaitKey", "SetDelay", "SetSound", "AddIndex", "SetIndexChar", "BCD", "RegDump"] → t.v = s.v) ∧
    (i.mnemonic ≠ "WaitKey" → t.waitX = s.waitX ∧ t.waitRef = s.waitRef) ∧
    (i.mnemonic ≠ "Rand" → t.env = s.env) ∧ t.keys = s.keys

/-- R31 (D24, log 25): the redraw flag, once set, is never cleared by any step. -/
def Obligations.RedrawIsNeverCleared : Prop :=
  ∀ s t : State, step s = .next t → s.redraw = true → t.redraw = true

/-- R63 (derived there): bytes that RegDump stores over the next instruction are what the next fetch reads, with no fence. Premise: memory in
canonical form (the model's own, log 4). -/
def Obligations.StoredCodeIsFetchedNext : Prop :=
  ∀ (x : Reg) (s t : State), s.mem.wf = true → s.i = s.pc + 2 → s.pc.toNat + 3 < 4096 → s.pc.toNat + 2 + x.val < 4096 →
    1 ≤ x.val → exec (.regDump x) s = .next t → t.mem.readWord t.pc.toNat = bigEndian (s.getV 0) (s.getV 1)

/-- The model's own (log 15; the canonical form of the premise, log 4): a word placed by `withFetchWord` is what the very next step decodes and runs, wherever `PC` stands. -/
def Obligations.PlacedWordRunsNext : Prop :=
  ∀ (s : State) (w : Word) (i : Instr), s.mem.wf = true → decode w = .ok i →
    (s.withFetchWord 16 w.toNat).CycleNext ∧
    ∃ t, exec i (s.withFetchWord 16 w.toNat).atStepFive = .next t ∧ step (s.withFetchWord 16 w.toNat) = .next t.endOfCycle

/-! ## State -/

/-- From every state that meets the invariant a step gives a state that meets it. The five facts: memory is in canonical form, which is the model's own
(DESIGN CHOICE, log 4; R51 gives the range of addresses only); return addresses are at most 4096 (R112; D14, log 18); `PC` is in the range of R24 and R93
for Running and Ended (C2, log 31) and of R174 for Waiting; at Faulted `PC` still holds the address of the instruction (R207; D27, log 13); the bitmap is
clear while redraw is (R31; D24, log 25). -/
def Obligations.StepKeepsTheInvariant : Prop :=
  ∀ s t : State, s.Inv → step s = .next t → t.Inv

/-- The state after reset meets the invariant (R37; D9, D10, log 1), and so does every construction: from a program shorter than 3584 bytes by R232; from
a longer one by the model's own choice of the other fields (DESIGN CHOICE, log 14), since R231 says that no other state exists then. The canonical form
of memory is the model's own (DESIGN CHOICE, log 4). -/
def Obligations.ResetMeetsTheInvariant : Prop :=
  State.reset.Inv ∧ ∀ p : List Byte, (construct p).Inv

/-- R37 (the spec's D9, D10, log 1; `waitX` and `waitRef` are the model's, log 2, and are not mentioned): the fields after reset. -/
def Obligations.ResetFields : Prop :=
  (∀ k, State.reset.getV k = 0) ∧ State.reset.i = 0 ∧ State.reset.pc = 0x200 ∧ State.reset.stack = [] ∧ State.reset.dt = 0 ∧
  State.reset.st = 0 ∧ State.reset.status = .running ∧ (∀ x y, State.reset.fb.px x y = false) ∧ State.reset.redraw = false ∧
  State.reset.keys = 0

/-- R37, R53 (D6, D7, D11, logs 4 to 6): after reset glyph `c` of the font table is at `FONT_BASE + 5 c`, and every byte outside the font is 0. -/
def Obligations.FontIsPreloaded : Prop :=
  (∀ c r, c < 16 → r < 5 → State.reset.mem.read (fontBase + 5 * c + r) = ((Config.fontGlyphs[c]?).getD [])[r]?.getD 0) ∧
  (∀ a, a < fontBase ∨ fontBase + 80 ≤ a → State.reset.mem.read a = 0) ∧ fontBase + 80 ≤ 0x200

/-- R231, R232 (D9 to D11, D29, log 14): a program shorter than 3584 bytes is at 0x200 in the reset state and everything else is as reset leaves it;
a longer one gives `Faulted(ProgramTooLarge, (len, 3584))` and no step. -/
def Obligations.ConstructionLoadsOrRefusesTheProgram : Prop :=
  ∀ p : List Byte,
    (p.length < 3584 →
      (∀ j (h : j < p.length), (construct p).mem.read (0x200 + j) = p[j]) ∧
      (∀ a, a < 0x200 ∨ 0x200 + p.length ≤ a → (construct p).mem.read a = State.reset.mem.read a) ∧
      construct p = { State.reset with mem := (construct p).mem }) ∧
    (3584 ≤ p.length → (construct p).status = .faulted (.programTooLarge p.length 3584) ∧
      step (construct p) = .fault (.runFaulted (.programTooLarge p.length 3584)))

/-- R60 b: "every read returns the value of the latest earlier write to the same location", and a write touches no other. That the memory written is again in
canonical form, and that premise, are about the model's own form (DESIGN CHOICE, log 4); R51 gives the range of addresses. -/
def Obligations.ReadReturnsTheLatestWrite : Prop :=
  ∀ (m : Memory) (a : Nat) (w : Byte), m.wf = true → a < 4096 →
    (∀ b, (m.write a w).read b = if b = a then w else m.read b) ∧ (m.write a w).wf = true

/-- The model's own (log 4): canonical memories that read alike everywhere are the same data. -/
def Obligations.CanonicalMemoriesAreTheirReads : Prop :=
  ∀ m m' : Memory, m.wf = true → m'.wf = true → (∀ a, m.read a = m'.read a) → m = m'
end

