-- ==== Sys2Proof/Laws/Decode.lean ====
section
/-! SUPPORT. The arithmetic of opcodes: nibble ranges as quotients and remainders, formats as sums, masks as nibbles. -/

namespace Sys2Proof

/-- A nibble range is a quotient and a remainder (R8). -/
theorem nib_eq (op : Word) (s e : Nat) : nib op s e = op.toNat / 2 ^ (4 * (3 - e)) % 2 ^ (4 * (e - s + 1)) := by
  simp [nib, Nat.shiftRight_eq_div_pow, Nat.shiftLeft_eq, Nat.and_two_pow_sub_one_eq_mod]

theorem nib_00 (op : Word) : nib op 0 0 = op.toNat / 4096 := by
  rw [nib_eq]; have := op.isLt; norm_num; omega

theorem nib_11 (op : Word) : nib op 1 1 = op.toNat / 256 % 16 := by rw [nib_eq]; norm_num

theorem nib_22 (op : Word) : nib op 2 2 = op.toNat / 16 % 16 := by rw [nib_eq]; norm_num

theorem nib_33 (op : Word) : nib op 3 3 = op.toNat % 16 := by rw [nib_eq]; norm_num

theorem nib_23 (op : Word) : nib op 2 3 = op.toNat % 256 := by rw [nib_eq]; norm_num

theorem nib_13 (op : Word) : nib op 1 3 = op.toNat % 4096 := by rw [nib_eq]; norm_num

/-- A field put below a multiple of a power of two is added to it. -/
theorem or_field {k b : Nat} (i : Nat) (hk : k % 2 ^ i = 0) (hb : b < 2 ^ i) : k ||| b = k + b := by
  have h := Nat.two_pow_add_eq_or_of_lt hb (k / 2 ^ i)
  rw [Nat.mul_div_cancel' (Nat.dvd_of_mod_eq_zero hk)] at h
  exact h.symm

/-- Format A as a sum (R72), the major opcode being `k`. -/
theorem toNat_formA {a : Word} (k : Nat) (hk : k < 16) (ha : a.toNat < 4096) :
    (formA (4096 * k) a).toNat = 4096 * k + a.toNat := by
  rw [formA, or_field 12 (by omega) ha, BitVec.toNat_ofNat, Nat.mod_eq_of_lt (by omega)]

/-- Format XN as a sum (R72). -/
theorem toNat_formXN (k : Nat) (hk : k < 16) (x : Reg) (n : Byte) :
    (formXN (4096 * k) x n).toNat = 4096 * k + 256 * x.val + n.toNat := by
  have hx := x.isLt
  have hn := n.isLt
  have h1 : x.val <<< 8 = 256 * x.val := by rw [Nat.shiftLeft_eq]; omega
  rw [formXN, h1, or_field (k := 4096 * k) 12 (by omega) (by omega), or_field 8 (by omega) hn, BitVec.toNat_ofNat,
    Nat.mod_eq_of_lt (by omega)]

/-- Format X as a sum (R72), the minor opcode being `lo`. -/
theorem toNat_formX (k lo : Nat) (hk : k < 16) (hlo : lo < 256) (x : Reg) :
    (formX (4096 * k + lo) x).toNat = 4096 * k + 256 * x.val + lo := by
  have hx := x.isLt
  have h1 : x.val <<< 8 = 256 * x.val := by rw [Nat.shiftLeft_eq]; omega
  have h2 : (4096 * k + lo) ||| 256 * x.val = 4096 * k + 256 * x.val + lo := by
    rw [← or_field (b := lo) 12 (by omega) (by omega), Nat.or_assoc, Nat.or_comm lo,
      or_field (k := 256 * x.val) 8 (by omega) (by omega), or_field 12 (by omega) (by omega), Nat.add_assoc]
  rw [formX, h1, h2, BitVec.toNat_ofNat, Nat.mod_eq_of_lt (by omega)]

/-- Format XY as a sum (R72), the minor opcode being `n`. -/
theorem toNat_formXY (k n : Nat) (hk : k < 16) (hn : n < 16) (x y : Reg) :
    (formXY (4096 * k + n) x y).toNat = 4096 * k + 256 * x.val + 16 * y.val + n := by
  have hx := x.isLt
  have hy := y.isLt
  have h1 : x.val <<< 8 = 256 * x.val := by rw [Nat.shiftLeft_eq]; omega
  have h3 : y.val <<< 4 = 16 * y.val := by rw [Nat.shiftLeft_eq]; omega
  have h2 : (4096 * k + n) ||| 256 * x.val ||| 16 * y.val = 4096 * k + 256 * x.val + 16 * y.val + n := by
    rw [← or_field (b := n) 12 (by omega) (by omega), Nat.or_assoc, Nat.or_assoc, Nat.or_comm n, Nat.or_assoc,
      or_field (k := 16 * y.val) 4 (by omega) (by omega), or_field (k := 256 * x.val) 8 (by omega) (by omega),
      or_field 12 (by omega) (by omega)]
    omega
  rw [formXY, h1, h3, h2, BitVec.toNat_ofNat, Nat.mod_eq_of_lt (by omega)]

/-- Format XYH as a sum (R72). -/
theorem toNat_formXYH (k : Nat) (hk : k < 16) (x y : Reg) (h : Fin 16) :
    (formXYH (4096 * k) x y h).toNat = 4096 * k + 256 * x.val + 16 * y.val + h.val := by
  have hx := x.isLt
  have hy := y.isLt
  have hh := h.isLt
  have h1 : x.val <<< 8 = 256 * x.val := by rw [Nat.shiftLeft_eq]; omega
  have h3 : y.val <<< 4 = 16 * y.val := by rw [Nat.shiftLeft_eq]; omega
  rw [formXYH, h1, h3, or_field (k := 4096 * k) 12 (by omega) (by omega),
    or_field (k := 4096 * k + 256 * x.val) 8 (by omega) (by omega), or_field 4 (by omega) (by omega), BitVec.toNat_ofNat, Nat.mod_eq_of_lt (by omega)]

/-- Masking with a block of ones keeps a field. -/
theorem and_block (n i j : Nat) : n &&& (2 ^ i * (2 ^ j - 1)) = 2 ^ i * (n / 2 ^ i % 2 ^ j) := by
  rw [Nat.mul_comm, ← Nat.shiftLeft_eq, Nat.mul_comm, ← Nat.shiftLeft_eq, ← Nat.and_two_pow_sub_one_eq_mod,
    ← Nat.shiftRight_eq_div_pow]
  refine Nat.eq_of_testBit_eq fun b => ?_
  simp only [Nat.testBit_and, Nat.testBit_shiftLeft, Nat.testBit_shiftRight]
  by_cases h : i ≤ b
  · simp [h, show i + (b - i) = b by omega]
  · simp [h]

/-- The mask 0xF000 keeps the high nibble (R76). -/
theorem toNat_and_F000 (op : Word) : (op &&& 0xF000).toNat = 4096 * nib op 0 0 := by
  have := and_block op.toNat 12 4
  rw [nib_eq]
  simpa using this

/-- The mask 0xF00F keeps the outer nibbles (R76). -/
theorem toNat_and_F00F (op : Word) : (op &&& 0xF00F).toNat = 4096 * nib op 0 0 + nib op 3 3 := by
  have h1 := and_block op.toNat 12 4
  have h2 := and_block op.toNat 0 4
  have h3 : (op &&& 0xF00F).toNat = (op.toNat &&& (2 ^ 12 * (2 ^ 4 - 1))) ||| (op.toNat &&& (2 ^ 0 * (2 ^ 4 - 1))) := by
    rw [← Nat.and_or_distrib_left]; rfl
  rw [h3, h1, h2, or_field 12 (by omega) (by omega), nib_00, nib_33]
  have := op.isLt
  omega

/-- The mask 0xF0FF keeps the high nibble and the low byte (R76). -/
theorem toNat_and_F0FF (op : Word) : (op &&& 0xF0FF).toNat = 4096 * nib op 0 0 + nib op 2 3 := by
  have h1 := and_block op.toNat 12 4
  have h2 := and_block op.toNat 0 8
  have h3 : (op &&& 0xF0FF).toNat = (op.toNat &&& (2 ^ 12 * (2 ^ 4 - 1))) ||| (op.toNat &&& (2 ^ 0 * (2 ^ 8 - 1))) := by
    rw [← Nat.and_or_distrib_left]; rfl
  rw [h3, h1, h2, or_field 12 (by omega) (by omega), nib_00, nib_23]
  have := op.isLt
  omega

/-- An opcode laid out as its two bytes reads back (R70, R52). -/
theorem bigEndian_wordBytes (w : Word) : bigEndian (BitVec.ofNat 8 (w.toNat / 256)) (BitVec.ofNat 8 w.toNat) = w := by
  apply BitVec.eq_of_toNat_eq
  have := w.isLt
  simp only [bigEndian, BitVec.toNat_ofNat]
  omega

end Sys2Proof
end

