-- ==== Sys2Proof/Laws/State.lean ====
section
/-! SUPPORT. One lemma per field per update: what each named update of State leaves in each field, so that no proof unfolds a
record update. -/

namespace Sys2Proof.Machine

/-! ### setV -/

@[simp] theorem State.setV_i (s : State) (x : Reg) (b : Byte) : (s.setV x b).i = s.i := rfl
@[simp] theorem State.setV_pc (s : State) (x : Reg) (b : Byte) : (s.setV x b).pc = s.pc := rfl
@[simp] theorem State.setV_stack (s : State) (x : Reg) (b : Byte) : (s.setV x b).stack = s.stack := rfl
@[simp] theorem State.setV_dt (s : State) (x : Reg) (b : Byte) : (s.setV x b).dt = s.dt := rfl
@[simp] theorem State.setV_st (s : State) (x : Reg) (b : Byte) : (s.setV x b).st = s.st := rfl
@[simp] theorem State.setV_mem (s : State) (x : Reg) (b : Byte) : (s.setV x b).mem = s.mem := rfl
@[simp] theorem State.setV_status (s : State) (x : Reg) (b : Byte) : (s.setV x b).status = s.status := rfl
@[simp] theorem State.setV_fb (s : State) (x : Reg) (b : Byte) : (s.setV x b).fb = s.fb := rfl
@[simp] theorem State.setV_redraw (s : State) (x : Reg) (b : Byte) : (s.setV x b).redraw = s.redraw := rfl
@[simp] theorem State.setV_keys (s : State) (x : Reg) (b : Byte) : (s.setV x b).keys = s.keys := rfl
@[simp] theorem State.setV_waitX (s : State) (x : Reg) (b : Byte) : (s.setV x b).waitX = s.waitX := rfl
@[simp] theorem State.setV_waitRef (s : State) (x : Reg) (b : Byte) : (s.setV x b).waitRef = s.waitRef := rfl
@[simp] theorem State.setV_env (s : State) (x : Reg) (b : Byte) : (s.setV x b).env = s.env := rfl

/-! ### setI -/

@[simp] theorem State.setI_v (s : State) (w : Word) : (s.setI w).v = s.v := rfl
@[simp] theorem State.setI_pc (s : State) (w : Word) : (s.setI w).pc = s.pc := rfl
@[simp] theorem State.setI_stack (s : State) (w : Word) : (s.setI w).stack = s.stack := rfl
@[simp] theorem State.setI_dt (s : State) (w : Word) : (s.setI w).dt = s.dt := rfl
@[simp] theorem State.setI_st (s : State) (w : Word) : (s.setI w).st = s.st := rfl
@[simp] theorem State.setI_mem (s : State) (w : Word) : (s.setI w).mem = s.mem := rfl
@[simp] theorem State.setI_status (s : State) (w : Word) : (s.setI w).status = s.status := rfl
@[simp] theorem State.setI_fb (s : State) (w : Word) : (s.setI w).fb = s.fb := rfl
@[simp] theorem State.setI_redraw (s : State) (w : Word) : (s.setI w).redraw = s.redraw := rfl
@[simp] theorem State.setI_keys (s : State) (w : Word) : (s.setI w).keys = s.keys := rfl
@[simp] theorem State.setI_waitX (s : State) (w : Word) : (s.setI w).waitX = s.waitX := rfl
@[simp] theorem State.setI_waitRef (s : State) (w : Word) : (s.setI w).waitRef = s.waitRef := rfl
@[simp] theorem State.setI_env (s : State) (w : Word) : (s.setI w).env = s.env := rfl
@[simp] theorem State.setI_i (s : State) (w : Word) : (s.setI w).i = w := rfl

/-! ### jump -/

@[simp] theorem State.jump_v (s : State) (w : Word) : (s.jump w).v = s.v := rfl
@[simp] theorem State.jump_i (s : State) (w : Word) : (s.jump w).i = s.i := rfl
@[simp] theorem State.jump_stack (s : State) (w : Word) : (s.jump w).stack = s.stack := rfl
@[simp] theorem State.jump_dt (s : State) (w : Word) : (s.jump w).dt = s.dt := rfl
@[simp] theorem State.jump_st (s : State) (w : Word) : (s.jump w).st = s.st := rfl
@[simp] theorem State.jump_mem (s : State) (w : Word) : (s.jump w).mem = s.mem := rfl
@[simp] theorem State.jump_status (s : State) (w : Word) : (s.jump w).status = s.status := rfl
@[simp] theorem State.jump_fb (s : State) (w : Word) : (s.jump w).fb = s.fb := rfl
@[simp] theorem State.jump_redraw (s : State) (w : Word) : (s.jump w).redraw = s.redraw := rfl
@[simp] theorem State.jump_keys (s : State) (w : Word) : (s.jump w).keys = s.keys := rfl
@[simp] theorem State.jump_waitX (s : State) (w : Word) : (s.jump w).waitX = s.waitX := rfl
@[simp] theorem State.jump_waitRef (s : State) (w : Word) : (s.jump w).waitRef = s.waitRef := rfl
@[simp] theorem State.jump_env (s : State) (w : Word) : (s.jump w).env = s.env := rfl
@[simp] theorem State.jump_pc (s : State) (w : Word) : (s.jump w).pc = w := rfl

/-! ### push -/

@[simp] theorem State.push_v (s : State) (w : Word) : (s.push w).v = s.v := rfl
@[simp] theorem State.push_i (s : State) (w : Word) : (s.push w).i = s.i := rfl
@[simp] theorem State.push_pc (s : State) (w : Word) : (s.push w).pc = s.pc := rfl
@[simp] theorem State.push_dt (s : State) (w : Word) : (s.push w).dt = s.dt := rfl
@[simp] theorem State.push_st (s : State) (w : Word) : (s.push w).st = s.st := rfl
@[simp] theorem State.push_mem (s : State) (w : Word) : (s.push w).mem = s.mem := rfl
@[simp] theorem State.push_status (s : State) (w : Word) : (s.push w).status = s.status := rfl
@[simp] theorem State.push_fb (s : State) (w : Word) : (s.push w).fb = s.fb := rfl
@[simp] theorem State.push_redraw (s : State) (w : Word) : (s.push w).redraw = s.redraw := rfl
@[simp] theorem State.push_keys (s : State) (w : Word) : (s.push w).keys = s.keys := rfl
@[simp] theorem State.push_waitX (s : State) (w : Word) : (s.push w).waitX = s.waitX := rfl
@[simp] theorem State.push_waitRef (s : State) (w : Word) : (s.push w).waitRef = s.waitRef := rfl
@[simp] theorem State.push_env (s : State) (w : Word) : (s.push w).env = s.env := rfl
@[simp] theorem State.push_stack (s : State) (w : Word) : (s.push w).stack = w :: s.stack := rfl

/-! ### raise -/

@[simp] theorem State.raise_v (s : State) (k : FaultKind) : (s.raise k).v = s.v := rfl
@[simp] theorem State.raise_i (s : State) (k : FaultKind) : (s.raise k).i = s.i := rfl
@[simp] theorem State.raise_pc (s : State) (k : FaultKind) : (s.raise k).pc = s.pc := rfl
@[simp] theorem State.raise_stack (s : State) (k : FaultKind) : (s.raise k).stack = s.stack := rfl
@[simp] theorem State.raise_dt (s : State) (k : FaultKind) : (s.raise k).dt = s.dt := rfl
@[simp] theorem State.raise_st (s : State) (k : FaultKind) : (s.raise k).st = s.st := rfl
@[simp] theorem State.raise_mem (s : State) (k : FaultKind) : (s.raise k).mem = s.mem := rfl
@[simp] theorem State.raise_fb (s : State) (k : FaultKind) : (s.raise k).fb = s.fb := rfl
@[simp] theorem State.raise_redraw (s : State) (k : FaultKind) : (s.raise k).redraw = s.redraw := rfl
@[simp] theorem State.raise_keys (s : State) (k : FaultKind) : (s.raise k).keys = s.keys := rfl
@[simp] theorem State.raise_waitX (s : State) (k : FaultKind) : (s.raise k).waitX = s.waitX := rfl
@[simp] theorem State.raise_waitRef (s : State) (k : FaultKind) : (s.raise k).waitRef = s.waitRef := rfl
@[simp] theorem State.raise_env (s : State) (k : FaultKind) : (s.raise k).env = s.env := rfl
@[simp] theorem State.raise_status (s : State) (k : FaultKind) : (s.raise k).status = .faulted k := rfl

/-! ### record -/

@[simp] theorem State.record_v (s : State) (c : HostCall) : (s.record c).v = s.v := rfl
@[simp] theorem State.record_i (s : State) (c : HostCall) : (s.record c).i = s.i := rfl
@[simp] theorem State.record_pc (s : State) (c : HostCall) : (s.record c).pc = s.pc := rfl
@[simp] theorem State.record_stack (s : State) (c : HostCall) : (s.record c).stack = s.stack := rfl
@[simp] theorem State.record_dt (s : State) (c : HostCall) : (s.record c).dt = s.dt := rfl
@[simp] theorem State.record_st (s : State) (c : HostCall) : (s.record c).st = s.st := rfl
@[simp] theorem State.record_mem (s : State) (c : HostCall) : (s.record c).mem = s.mem := rfl
@[simp] theorem State.record_status (s : State) (c : HostCall) : (s.record c).status = s.status := rfl
@[simp] theorem State.record_fb (s : State) (c : HostCall) : (s.record c).fb = s.fb := rfl
@[simp] theorem State.record_redraw (s : State) (c : HostCall) : (s.record c).redraw = s.redraw := rfl
@[simp] theorem State.record_keys (s : State) (c : HostCall) : (s.record c).keys = s.keys := rfl
@[simp] theorem State.record_waitX (s : State) (c : HostCall) : (s.record c).waitX = s.waitX := rfl
@[simp] theorem State.record_waitRef (s : State) (c : HostCall) : (s.record c).waitRef = s.waitRef := rfl
@[simp] theorem State.record_env (s : State) (c : HostCall) : (s.record c).env = { s.env with calls := c :: s.env.calls } := rfl

/-! ### advance -/

@[simp] theorem State.advance_v (s : State) : (s.advance).v = s.v := rfl
@[simp] theorem State.advance_i (s : State) : (s.advance).i = s.i := rfl
@[simp] theorem State.advance_stack (s : State) : (s.advance).stack = s.stack := rfl
@[simp] theorem State.advance_dt (s : State) : (s.advance).dt = s.dt := rfl
@[simp] theorem State.advance_st (s : State) : (s.advance).st = s.st := rfl
@[simp] theorem State.advance_mem (s : State) : (s.advance).mem = s.mem := rfl
@[simp] theorem State.advance_status (s : State) : (s.advance).status = s.status := rfl
@[simp] theorem State.advance_fb (s : State) : (s.advance).fb = s.fb := rfl
@[simp] theorem State.advance_redraw (s : State) : (s.advance).redraw = s.redraw := rfl
@[simp] theorem State.advance_keys (s : State) : (s.advance).keys = s.keys := rfl
@[simp] theorem State.advance_waitX (s : State) : (s.advance).waitX = s.waitX := rfl
@[simp] theorem State.advance_waitRef (s : State) : (s.advance).waitRef = s.waitRef := rfl
@[simp] theorem State.advance_env (s : State) : (s.advance).env = s.env := rfl
@[simp] theorem State.advance_pc (s : State) : (s.advance).pc = s.pc + 2 := rfl

/-! ### skipIf -/

@[simp] theorem State.skipIf_v (s : State) (c : Bool) : (s.skipIf c).v = s.v := rfl
@[simp] theorem State.skipIf_i (s : State) (c : Bool) : (s.skipIf c).i = s.i := rfl
@[simp] theorem State.skipIf_stack (s : State) (c : Bool) : (s.skipIf c).stack = s.stack := rfl
@[simp] theorem State.skipIf_dt (s : State) (c : Bool) : (s.skipIf c).dt = s.dt := rfl
@[simp] theorem State.skipIf_st (s : State) (c : Bool) : (s.skipIf c).st = s.st := rfl
@[simp] theorem State.skipIf_mem (s : State) (c : Bool) : (s.skipIf c).mem = s.mem := rfl
@[simp] theorem State.skipIf_status (s : State) (c : Bool) : (s.skipIf c).status = s.status := rfl
@[simp] theorem State.skipIf_fb (s : State) (c : Bool) : (s.skipIf c).fb = s.fb := rfl
@[simp] theorem State.skipIf_redraw (s : State) (c : Bool) : (s.skipIf c).redraw = s.redraw := rfl
@[simp] theorem State.skipIf_keys (s : State) (c : Bool) : (s.skipIf c).keys = s.keys := rfl
@[simp] theorem State.skipIf_waitX (s : State) (c : Bool) : (s.skipIf c).waitX = s.waitX := rfl
@[simp] theorem State.skipIf_waitRef (s : State) (c : Bool) : (s.skipIf c).waitRef = s.waitRef := rfl
@[simp] theorem State.skipIf_env (s : State) (c : Bool) : (s.skipIf c).env = s.env := rfl
@[simp] theorem State.skipIf_pc (s : State) (c : Bool) : (s.skipIf c).pc = if c then s.pc + 4 else s.pc + 2 := rfl

/-! ### setResultAndFlag -/

@[simp] theorem State.setResultAndFlag_i (s : State) (x : Reg) (r f : Byte) : (s.setResultAndFlag x r f).i = s.i := rfl
@[simp] theorem State.setResultAndFlag_pc (s : State) (x : Reg) (r f : Byte) : (s.setResultAndFlag x r f).pc = s.pc := rfl
@[simp] theorem State.setResultAndFlag_stack (s : State) (x : Reg) (r f : Byte) : (s.setResultAndFlag x r f).stack = s.stack := rfl
@[simp] theorem State.setResultAndFlag_dt (s : State) (x : Reg) (r f : Byte) : (s.setResultAndFlag x r f).dt = s.dt := rfl
@[simp] theorem State.setResultAndFlag_st (s : State) (x : Reg) (r f : Byte) : (s.setResultAndFlag x r f).st = s.st := rfl
@[simp] theorem State.setResultAndFlag_mem (s : State) (x : Reg) (r f : Byte) : (s.setResultAndFlag x r f).mem = s.mem := rfl
@[simp] theorem State.setResultAndFlag_status (s : State) (x : Reg) (r f : Byte) : (s.setResultAndFlag x r f).status = s.status := rfl
@[simp] theorem State.setResultAndFlag_fb (s : State) (x : Reg) (r f : Byte) : (s.setResultAndFlag x r f).fb = s.fb := rfl
@[simp] theorem State.setResultAndFlag_redraw (s : State) (x : Reg) (r f : Byte) : (s.setResultAndFlag x r f).redraw = s.redraw := rfl
@[simp] theorem State.setResultAndFlag_keys (s : State) (x : Reg) (r f : Byte) : (s.setResultAndFlag x r f).keys = s.keys := rfl
@[simp] theorem State.setResultAndFlag_waitX (s : State) (x : Reg) (r f : Byte) : (s.setResultAndFlag x r f).waitX = s.waitX := rfl
@[simp] theorem State.setResultAndFlag_waitRef (s : State) (x : Reg) (r f : Byte) : (s.setResultAndFlag x r f).waitRef = s.waitRef := rfl
@[simp] theorem State.setResultAndFlag_env (s : State) (x : Reg) (r f : Byte) : (s.setResultAndFlag x r f).env = s.env := rfl

/-! ### popToPc -/

@[simp] theorem State.popToPc_v (s : State) : (s.popToPc).v = s.v := by unfold State.popToPc; split <;> rfl
@[simp] theorem State.popToPc_i (s : State) : (s.popToPc).i = s.i := by unfold State.popToPc; split <;> rfl
@[simp] theorem State.popToPc_dt (s : State) : (s.popToPc).dt = s.dt := by unfold State.popToPc; split <;> rfl
@[simp] theorem State.popToPc_st (s : State) : (s.popToPc).st = s.st := by unfold State.popToPc; split <;> rfl
@[simp] theorem State.popToPc_mem (s : State) : (s.popToPc).mem = s.mem := by unfold State.popToPc; split <;> rfl
@[simp] theorem State.popToPc_status (s : State) : (s.popToPc).status = s.status := by unfold State.popToPc; split <;> rfl
@[simp] theorem State.popToPc_fb (s : State) : (s.popToPc).fb = s.fb := by unfold State.popToPc; split <;> rfl
@[simp] theorem State.popToPc_redraw (s : State) : (s.popToPc).redraw = s.redraw := by unfold State.popToPc; split <;> rfl
@[simp] theorem State.popToPc_keys (s : State) : (s.popToPc).keys = s.keys := by unfold State.popToPc; split <;> rfl
@[simp] theorem State.popToPc_waitX (s : State) : (s.popToPc).waitX = s.waitX := by unfold State.popToPc; split <;> rfl
@[simp] theorem State.popToPc_waitRef (s : State) : (s.popToPc).waitRef = s.waitRef := by unfold State.popToPc; split <;> rfl
@[simp] theorem State.popToPc_env (s : State) : (s.popToPc).env = s.env := by unfold State.popToPc; split <;> rfl

/-! ### consumeKeys -/

@[simp] theorem State.consumeKeys_v (s : State) : (s.consumeKeys).v = s.v := by unfold State.consumeKeys; split <;> rfl
@[simp] theorem State.consumeKeys_i (s : State) : (s.consumeKeys).i = s.i := by unfold State.consumeKeys; split <;> rfl
@[simp] theorem State.consumeKeys_pc (s : State) : (s.consumeKeys).pc = s.pc := by unfold State.consumeKeys; split <;> rfl
@[simp] theorem State.consumeKeys_stack (s : State) : (s.consumeKeys).stack = s.stack := by unfold State.consumeKeys; split <;> rfl
@[simp] theorem State.consumeKeys_dt (s : State) : (s.consumeKeys).dt = s.dt := by unfold State.consumeKeys; split <;> rfl
@[simp] theorem State.consumeKeys_st (s : State) : (s.consumeKeys).st = s.st := by unfold State.consumeKeys; split <;> rfl
@[simp] theorem State.consumeKeys_mem (s : State) : (s.consumeKeys).mem = s.mem := by unfold State.consumeKeys; split <;> rfl
@[simp] theorem State.consumeKeys_status (s : State) : (s.consumeKeys).status = s.status := by unfold State.consumeKeys; split <;> rfl
@[simp] theorem State.consumeKeys_fb (s : State) : (s.consumeKeys).fb = s.fb := by unfold State.consumeKeys; split <;> rfl
@[simp] theorem State.consumeKeys_redraw (s : State) : (s.consumeKeys).redraw = s.redraw := by unfold State.consumeKeys; split <;> rfl
@[simp] theorem State.consumeKeys_keys (s : State) : (s.consumeKeys).keys = s.keys := by unfold State.consumeKeys; split <;> rfl
@[simp] theorem State.consumeKeys_waitX (s : State) : (s.consumeKeys).waitX = s.waitX := by unfold State.consumeKeys; split <;> rfl
@[simp] theorem State.consumeKeys_waitRef (s : State) : (s.consumeKeys).waitRef = s.waitRef := by unfold State.consumeKeys; split <;> rfl

/-! ### consumeByte -/

@[simp] theorem State.consumeByte_v (s : State) : (s.consumeByte).v = s.v := by unfold State.consumeByte; split <;> rfl
@[simp] theorem State.consumeByte_i (s : State) : (s.consumeByte).i = s.i := by unfold State.consumeByte; split <;> rfl
@[simp] theorem State.consumeByte_pc (s : State) : (s.consumeByte).pc = s.pc := by unfold State.consumeByte; split <;> rfl
@[simp] theorem State.consumeByte_stack (s : State) : (s.consumeByte).stack = s.stack := by unfold State.consumeByte; split <;> rfl
@[simp] theorem State.consumeByte_dt (s : State) : (s.consumeByte).dt = s.dt := by unfold State.consumeByte; split <;> rfl
@[simp] theorem State.consumeByte_st (s : State) : (s.consumeByte).st = s.st := by unfold State.consumeByte; split <;> rfl
@[simp] theorem State.consumeByte_mem (s : State) : (s.consumeByte).mem = s.mem := by unfold State.consumeByte; split <;> rfl
@[simp] theorem State.consumeByte_status (s : State) : (s.consumeByte).status = s.status := by unfold State.consumeByte; split <;> rfl
@[simp] theorem State.consumeByte_fb (s : State) : (s.consumeByte).fb = s.fb := by unfold State.consumeByte; split <;> rfl
@[simp] theorem State.consumeByte_redraw (s : State) : (s.consumeByte).redraw = s.redraw := by unfold State.consumeByte; split <;> rfl
@[simp] theorem State.consumeByte_keys (s : State) : (s.consumeByte).keys = s.keys := by unfold State.consumeByte; split <;> rfl
@[simp] theorem State.consumeByte_waitX (s : State) : (s.consumeByte).waitX = s.waitX := by unfold State.consumeByte; split <;> rfl
@[simp] theorem State.consumeByte_waitRef (s : State) : (s.consumeByte).waitRef = s.waitRef := by unfold State.consumeByte; split <;> rfl

/-! ### consumeAgent -/

@[simp] theorem State.consumeAgent_v (s : State) : (s.consumeAgent).v = s.v := by unfold State.consumeAgent; split <;> rfl
@[simp] theorem State.consumeAgent_i (s : State) : (s.consumeAgent).i = s.i := by unfold State.consumeAgent; split <;> rfl
@[simp] theorem State.consumeAgent_pc (s : State) : (s.consumeAgent).pc = s.pc := by unfold State.consumeAgent; split <;> rfl
@[simp] theorem State.consumeAgent_stack (s : State) : (s.consumeAgent).stack = s.stack := by unfold State.consumeAgent; split <;> rfl
@[simp] theorem State.consumeAgent_dt (s : State) : (s.consumeAgent).dt = s.dt := by unfold State.consumeAgent; split <;> rfl
@[simp] theorem State.consumeAgent_st (s : State) : (s.consumeAgent).st = s.st := by unfold State.consumeAgent; split <;> rfl
@[simp] theorem State.consumeAgent_mem (s : State) : (s.consumeAgent).mem = s.mem := by unfold State.consumeAgent; split <;> rfl
@[simp] theorem State.consumeAgent_status (s : State) : (s.consumeAgent).status = s.status := by unfold State.consumeAgent; split <;> rfl
@[simp] theorem State.consumeAgent_fb (s : State) : (s.consumeAgent).fb = s.fb := by unfold State.consumeAgent; split <;> rfl
@[simp] theorem State.consumeAgent_redraw (s : State) : (s.consumeAgent).redraw = s.redraw := by unfold State.consumeAgent; split <;> rfl
@[simp] theorem State.consumeAgent_keys (s : State) : (s.consumeAgent).keys = s.keys := by unfold State.consumeAgent; split <;> rfl
@[simp] theorem State.consumeAgent_waitX (s : State) : (s.consumeAgent).waitX = s.waitX := by unfold State.consumeAgent; split <;> rfl
@[simp] theorem State.consumeAgent_waitRef (s : State) : (s.consumeAgent).waitRef = s.waitRef := by unfold State.consumeAgent; split <;> rfl

/-! ### flush -/

@[simp] theorem State.flush_v (s : State) : (s.flush).v = s.v := by unfold State.flush; split <;> rfl
@[simp] theorem State.flush_i (s : State) : (s.flush).i = s.i := by unfold State.flush; split <;> rfl
@[simp] theorem State.flush_pc (s : State) : (s.flush).pc = s.pc := by unfold State.flush; split <;> rfl
@[simp] theorem State.flush_stack (s : State) : (s.flush).stack = s.stack := by unfold State.flush; split <;> rfl
@[simp] theorem State.flush_dt (s : State) : (s.flush).dt = s.dt := by unfold State.flush; split <;> rfl
@[simp] theorem State.flush_st (s : State) : (s.flush).st = s.st := by unfold State.flush; split <;> rfl
@[simp] theorem State.flush_mem (s : State) : (s.flush).mem = s.mem := by unfold State.flush; split <;> rfl
@[simp] theorem State.flush_status (s : State) : (s.flush).status = s.status := by unfold State.flush; split <;> rfl
@[simp] theorem State.flush_fb (s : State) : (s.flush).fb = s.fb := by unfold State.flush; split <;> rfl
@[simp] theorem State.flush_redraw (s : State) : (s.flush).redraw = s.redraw := by unfold State.flush; split <;> rfl
@[simp] theorem State.flush_keys (s : State) : (s.flush).keys = s.keys := by unfold State.flush; split <;> rfl
@[simp] theorem State.flush_waitX (s : State) : (s.flush).waitX = s.waitX := by unfold State.flush; split <;> rfl
@[simp] theorem State.flush_waitRef (s : State) : (s.flush).waitRef = s.waitRef := by unfold State.flush; split <;> rfl

/-! ### refreshKeys -/

@[simp] theorem State.refreshKeys_v (s : State) : (s.refreshKeys).v = s.v := by simp [State.refreshKeys]
@[simp] theorem State.refreshKeys_i (s : State) : (s.refreshKeys).i = s.i := by simp [State.refreshKeys]
@[simp] theorem State.refreshKeys_pc (s : State) : (s.refreshKeys).pc = s.pc := by simp [State.refreshKeys]
@[simp] theorem State.refreshKeys_stack (s : State) : (s.refreshKeys).stack = s.stack := by simp [State.refreshKeys]
@[simp] theorem State.refreshKeys_dt (s : State) : (s.refreshKeys).dt = s.dt := by simp [State.refreshKeys]
@[simp] theorem State.refreshKeys_st (s : State) : (s.refreshKeys).st = s.st := by simp [State.refreshKeys]
@[simp] theorem State.refreshKeys_mem (s : State) : (s.refreshKeys).mem = s.mem := by simp [State.refreshKeys]
@[simp] theorem State.refreshKeys_status (s : State) : (s.refreshKeys).status = s.status := by simp [State.refreshKeys]
@[simp] theorem State.refreshKeys_fb (s : State) : (s.refreshKeys).fb = s.fb := by simp [State.refreshKeys]
@[simp] theorem State.refreshKeys_redraw (s : State) : (s.refreshKeys).redraw = s.redraw := by simp [State.refreshKeys]
@[simp] theorem State.refreshKeys_waitX (s : State) : (s.refreshKeys).waitX = s.waitX := by simp [State.refreshKeys]
@[simp] theorem State.refreshKeys_waitRef (s : State) : (s.refreshKeys).waitRef = s.waitRef := by simp [State.refreshKeys]
@[simp] theorem State.refreshKeys_keys (s : State) : (s.refreshKeys).keys = s.nextKeys := rfl
@[simp] theorem State.refreshKeys_env (s : State) : (s.refreshKeys).env = s.consumeKeys.env := rfl

/-! ### endOfCycle -/

@[simp] theorem State.endOfCycle_v (s : State) : (s.endOfCycle).v = s.v := by unfold State.endOfCycle; split <;> simp
@[simp] theorem State.endOfCycle_i (s : State) : (s.endOfCycle).i = s.i := by unfold State.endOfCycle; split <;> simp
@[simp] theorem State.endOfCycle_pc (s : State) : (s.endOfCycle).pc = s.pc := by unfold State.endOfCycle; split <;> simp
@[simp] theorem State.endOfCycle_stack (s : State) : (s.endOfCycle).stack = s.stack := by unfold State.endOfCycle; split <;> simp
@[simp] theorem State.endOfCycle_dt (s : State) : (s.endOfCycle).dt = s.dt := by unfold State.endOfCycle; split <;> simp
@[simp] theorem State.endOfCycle_st (s : State) : (s.endOfCycle).st = s.st := by unfold State.endOfCycle; split <;> simp
@[simp] theorem State.endOfCycle_mem (s : State) : (s.endOfCycle).mem = s.mem := by unfold State.endOfCycle; split <;> simp
@[simp] theorem State.endOfCycle_status (s : State) : (s.endOfCycle).status = s.status := by unfold State.endOfCycle; split <;> simp
@[simp] theorem State.endOfCycle_fb (s : State) : (s.endOfCycle).fb = s.fb := by unfold State.endOfCycle; split <;> simp
@[simp] theorem State.endOfCycle_redraw (s : State) : (s.endOfCycle).redraw = s.redraw := by unfold State.endOfCycle; split <;> simp
@[simp] theorem State.endOfCycle_keys (s : State) : (s.endOfCycle).keys = s.keys := by unfold State.endOfCycle; split <;> simp
@[simp] theorem State.endOfCycle_waitX (s : State) : (s.endOfCycle).waitX = s.waitX := by unfold State.endOfCycle; split <;> simp
@[simp] theorem State.endOfCycle_waitRef (s : State) : (s.endOfCycle).waitRef = s.waitRef := by unfold State.endOfCycle; split <;> simp

/-! ### tick -/

@[simp] theorem State.tick_v (s : State) : (s.tick).v = s.v := by unfold State.tick; dsimp only; split <;> rfl
@[simp] theorem State.tick_i (s : State) : (s.tick).i = s.i := by unfold State.tick; dsimp only; split <;> rfl
@[simp] theorem State.tick_pc (s : State) : (s.tick).pc = s.pc := by unfold State.tick; dsimp only; split <;> rfl
@[simp] theorem State.tick_stack (s : State) : (s.tick).stack = s.stack := by unfold State.tick; dsimp only; split <;> rfl
@[simp] theorem State.tick_mem (s : State) : (s.tick).mem = s.mem := by unfold State.tick; dsimp only; split <;> rfl
@[simp] theorem State.tick_status (s : State) : (s.tick).status = s.status := by unfold State.tick; dsimp only; split <;> rfl
@[simp] theorem State.tick_fb (s : State) : (s.tick).fb = s.fb := by unfold State.tick; dsimp only; split <;> rfl
@[simp] theorem State.tick_redraw (s : State) : (s.tick).redraw = s.redraw := by unfold State.tick; dsimp only; split <;> rfl
@[simp] theorem State.tick_keys (s : State) : (s.tick).keys = s.keys := by unfold State.tick; dsimp only; split <;> rfl
@[simp] theorem State.tick_waitX (s : State) : (s.tick).waitX = s.waitX := by unfold State.tick; dsimp only; split <;> rfl
@[simp] theorem State.tick_waitRef (s : State) : (s.tick).waitRef = s.waitRef := by unfold State.tick; dsimp only; split <;> rfl
@[simp] theorem State.tick_dt (s : State) : (s.tick).dt = countDown s.dt := by unfold State.tick; dsimp only; split <;> rfl
@[simp] theorem State.tick_st (s : State) : (s.tick).st = countDown s.st := by unfold State.tick; dsimp only; split <;> rfl

/-! ### reading a register after an update -/

@[simp] theorem State.getV_setV (s : State) (x k : Reg) (b : Byte) :
    (s.setV x b).getV k = if k = x then b else s.getV k := by
  simp only [State.getV, State.setV, Vector.get_eq_getElem, Vector.getElem_set, Fin.val_inj]
  by_cases h : x = k
  · simp [h]
  · simp [h, Ne.symm h]

@[simp] theorem State.getV_setResultAndFlag (s : State) (x k : Reg) (r f : Byte) :
    (s.setResultAndFlag x r f).getV k = if k = vf then f else if k = x then r else s.getV k := by
  simp [State.setResultAndFlag]

@[simp] theorem State.getV_setI (s : State) (w : Word) (y : Reg) : (s.setI w).getV y = s.getV y := by simp [State.getV]
@[simp] theorem State.getV_jump (s : State) (w : Word) (y : Reg) : (s.jump w).getV y = s.getV y := by simp [State.getV]
@[simp] theorem State.getV_push (s : State) (w : Word) (y : Reg) : (s.push w).getV y = s.getV y := by simp [State.getV]
@[simp] theorem State.getV_raise (s : State) (k : FaultKind) (y : Reg) : (s.raise k).getV y = s.getV y := by simp [State.getV]
@[simp] theorem State.getV_record (s : State) (c : HostCall) (y : Reg) : (s.record c).getV y = s.getV y := by simp [State.getV]
@[simp] theorem State.getV_advance (s : State) (y : Reg) : (s.advance).getV y = s.getV y := by simp [State.getV]
@[simp] theorem State.getV_skipIf (s : State) (c : Bool) (y : Reg) : (s.skipIf c).getV y = s.getV y := by simp [State.getV]
@[simp] theorem State.getV_popToPc (s : State) (y : Reg) : (s.popToPc).getV y = s.getV y := by simp [State.getV]
@[simp] theorem State.getV_consumeKeys (s : State) (y : Reg) : (s.consumeKeys).getV y = s.getV y := by simp [State.getV]
@[simp] theorem State.getV_consumeByte (s : State) (y : Reg) : (s.consumeByte).getV y = s.getV y := by simp [State.getV]
@[simp] theorem State.getV_consumeAgent (s : State) (y : Reg) : (s.consumeAgent).getV y = s.getV y := by simp [State.getV]
@[simp] theorem State.getV_flush (s : State) (y : Reg) : (s.flush).getV y = s.getV y := by simp [State.getV]
@[simp] theorem State.getV_refreshKeys (s : State) (y : Reg) : (s.refreshKeys).getV y = s.getV y := by simp [State.getV]
@[simp] theorem State.getV_endOfCycle (s : State) (y : Reg) : (s.endOfCycle).getV y = s.getV y := by simp [State.getV]
@[simp] theorem State.getV_tick (s : State) (y : Reg) : (s.tick).getV y = s.getV y := by simp [State.getV]

/-- The register file is what its registers read as. -/
theorem State.v_ext {s t : State} (h : ∀ k, t.getV k = s.getV k) : t.v = s.v := by
  refine Vector.ext fun k hk => ?_
  simpa [State.getV, Vector.get_eq_getElem] using h ⟨k, hk⟩

end Sys2Proof.Machine
end

