-- ==== Sys2Proof/Laws/Display.lean ====
section
/-! SUPPORT. The laws of the bitmap: a pixel after a write, and all that a row and a sprite can do to it. -/

namespace Sys2Proof.Machine

/-- A pixel of a row after one of them is written. -/
theorem getLsbD_rowWithPixel (row : BitVec Config.displayWidth) (x x' : Nat) (b : Bool) :
    (rowWithPixel row x b).getLsbD x' =
      if x' = x ∧ x < Config.displayWidth then b else row.getLsbD x' := by
  by_cases hx : x' = x
  · subst hx
    by_cases hw : x' < Config.displayWidth
    · cases b <;> simp_all [rowWithPixel]
    · have := BitVec.getLsbD_of_ge row x' (by omega)
      cases b <;> simp_all [rowWithPixel]
  · cases b
    · by_cases hw : x' < Config.displayWidth
      · simp_all [rowWithPixel]
      · have := BitVec.getLsbD_of_ge row x' (by omega)
        simp_all [rowWithPixel]
    · simp_all [rowWithPixel, BitVec.getLsbD_twoPow, Ne.symm hx]

/-- `px(x', y')` after `px(x, y) <- b` (R9). -/
theorem Frame.px_setPx (fb : Frame) {x y : Nat} (hx : x < Config.displayWidth) (hy : y < Config.displayHeight)
    (b : Bool) (x' y' : Nat) :
    (fb.setPx x y b).px x' y' = if x' = x ∧ y' = y then b else fb.px x' y' := by
  simp only [Frame.px, Frame.setPx, Vector.getElem?_setIfInBounds]
  by_cases h : y = y'
  · subst h
    rw [if_pos rfl, if_pos hy]
    simp [getLsbD_rowWithPixel, hx]
  · rw [if_neg h, if_neg (fun hh => h hh.2.symm)]

/-- Outside the bitmap no pixel is set. -/
theorem Frame.px_outside (fb : Frame) {x y : Nat} (h : Config.displayWidth ≤ x ∨ Config.displayHeight ≤ y) :
    fb.px x y = false := by
  obtain h | h := h
  · exact BitVec.getLsbD_of_ge _ _ h
  · simp [Frame.px, Vector.getElem?_eq_none h]

/-- A cleared bitmap has no pixel set (R191). -/
@[simp] theorem Frame.px_clear (x y : Nat) : Frame.clear.px x y = false := by
  by_cases h : y < Config.displayHeight
  · simp [Frame.px, Frame.clear, h]
  · exact Frame.px_outside _ (.inr (by omega))

/-- A bitmap is its pixels. -/
theorem Frame.ext_px {f g : Frame} (h : ∀ x y, f.px x y = g.px x y) : f = g := by
  refine Vector.ext fun y hy => BitVec.eq_of_getLsbD_eq fun x _ => ?_
  simpa [Frame.px, hy] using h x y

/-- Whether the sprite whose rows are `rows`, with its top left at `(x0, y0)`, has a 1 bit at `(x, y)` (R193). -/
def spriteBit (rows : List Byte) (x0 y0 x y : Nat) : Bool :=
  decide (x0 ≤ x ∧ x < x0 + Config.spriteWidth ∧ y0 ≤ y) && ((rows[y - y0]?).getD 0).getLsbD (7 - (x - x0))

/-- What the first `n` columns of a sprite row do (R193). -/
theorem blitRow_upTo (b : Blit) {x0 y n : Nat} (row : Byte) (hx : x0 + n ≤ Config.displayWidth)
    (hy : y < Config.displayHeight) :
    let t := (List.range n).foldl (fun acc c => blitBit acc (x0 + c) y (row.getLsbD (7 - c))) b
    (∀ x' y', t.fb.px x' y' =
      (b.fb.px x' y' ^^ (decide (y' = y ∧ x0 ≤ x' ∧ x' < x0 + n) && row.getLsbD (7 - (x' - x0))))) ∧
    (t.collision = true ↔ b.collision = true ∨
      ∃ c, c < n ∧ row.getLsbD (7 - c) = true ∧ b.fb.px (x0 + c) y = true) ∧
    (t.changed = true ↔ b.changed = true ∨ ∃ c, c < n ∧ row.getLsbD (7 - c) = true) := by
  induction n with
  | zero =>
    refine ⟨fun x' y' => ?_, by simp, by simp⟩
    have : ¬ (y' = y ∧ x0 ≤ x' ∧ x' < x0 + 0) := by omega
    simp only [this, decide_false, Bool.false_and, Bool.xor_false, List.range_zero, List.foldl_nil]
  | succ n ih =>
    obtain ⟨ihp, ihc, ihd⟩ := ih (by omega)
    dsimp only at ihp ihc ihd ⊢
    rw [List.range_succ, List.foldl_append]
    generalize (List.range n).foldl (fun acc c => blitBit acc (x0 + c) y (row.getLsbD (7 - c))) b = t at ihp ihc ihd ⊢
    simp only [List.foldl_cons, List.foldl_nil]
    have hpx : t.fb.px (x0 + n) y = b.fb.px (x0 + n) y := by
      rw [ihp]
      simp
    cases hbit : row.getLsbD (7 - n) with
    | false =>
      refine ⟨fun x' y' => ?_, ?_, ?_⟩
      · simp only [blitBit, Bool.false_eq_true, if_false]
        rw [ihp]
        by_cases he : y' = y ∧ x' = x0 + n
        · obtain ⟨rfl, rfl⟩ := he
          simp [hbit]
        · have : (y' = y ∧ x0 ≤ x' ∧ x' < x0 + n) ↔ (y' = y ∧ x0 ≤ x' ∧ x' < x0 + (n + 1)) := by omega
          simp only [this]
      · simp only [blitBit, Bool.false_eq_true, if_false, ihc]
        constructor
        · rintro (h | ⟨c, h1, h2⟩)
          · exact .inl h
          · exact .inr ⟨c, by omega, h2⟩
        · rintro (h | ⟨c, h1, h2, h3⟩)
          · exact .inl h
          · by_cases hcn : c = n
            · subst hcn; simp [hbit] at h2
            · exact .inr ⟨c, by omega, h2, h3⟩
      · simp only [blitBit, Bool.false_eq_true, if_false, ihd]
        constructor
        · rintro (h | ⟨c, h1, h2⟩)
          · exact .inl h
          · exact .inr ⟨c, by omega, h2⟩
        · rintro (h | ⟨c, h1, h2⟩)
          · exact .inl h
          · by_cases hcn : c = n
            · subst hcn; simp [hbit] at h2
            · exact .inr ⟨c, by omega, h2⟩
    | true =>
      refine ⟨fun x' y' => ?_, ?_, ?_⟩
      · simp only [blitBit, if_true]
        rw [Frame.px_setPx _ (by omega) hy]
        by_cases he : x' = x0 + n ∧ y' = y
        · obtain ⟨rfl, rfl⟩ := he
          simp [hbit, hpx]
        · rw [if_neg he, ihp]
          have : (y' = y ∧ x0 ≤ x' ∧ x' < x0 + n) ↔ (y' = y ∧ x0 ≤ x' ∧ x' < x0 + (n + 1)) := by omega
          simp only [this]
      · simp only [blitBit, if_true, Bool.or_eq_true, ihc, hpx]
        constructor
        · rintro ((h | ⟨c, h1, h2⟩) | h)
          · exact .inl h
          · exact .inr ⟨c, by omega, h2⟩
          · exact .inr ⟨n, by omega, hbit, h⟩
        · rintro (h | ⟨c, h1, h2, h3⟩)
          · exact .inl (.inl h)
          · by_cases hcn : c = n
            · subst hcn; exact .inr h3
            · exact .inl (.inr ⟨c, by omega, h2, h3⟩)
      · simp only [blitBit, if_true, true_iff]
        exact .inr ⟨n, by omega, hbit⟩

/-- All that a sprite inside the bitmap does: the pixels, the collision and the change (R193). -/
theorem blitRows_spec {x0 : Nat} (hx : x0 + Config.spriteWidth ≤ Config.displayWidth) (rows : List Byte) (b : Blit)
    {y0 : Nat} (hy : y0 + rows.length ≤ Config.displayHeight) :
    (∀ x y, (blitRows b x0 y0 rows).fb.px x y = (b.fb.px x y ^^ spriteBit rows x0 y0 x y)) ∧
    ((blitRows b x0 y0 rows).collision = true ↔ b.collision = true ∨
      ∃ r c, r < rows.length ∧ c < Config.spriteWidth ∧ ((rows[r]?).getD 0).getLsbD (7 - c) = true ∧
        b.fb.px (x0 + c) (y0 + r) = true) ∧
    ((blitRows b x0 y0 rows).changed = true ↔ b.changed = true ∨
      ∃ r c, r < rows.length ∧ c < Config.spriteWidth ∧ ((rows[r]?).getD 0).getLsbD (7 - c) = true) := by
  induction rows generalizing b y0 with
  | nil => simp [blitRows, spriteBit]
  | cons row rows ih =>
    simp only [List.length_cons] at hy ⊢
    obtain ⟨hp, hc, hd⟩ := blitRow_upTo b (x0 := x0) (y := y0) row hx (by omega)
    obtain ⟨ihp, ihc, ihd⟩ := ih (blitRow b x0 y0 row) (y0 := y0 + 1) (by omega)
    have hp' : ∀ x y, (blitRow b x0 y0 row).fb.px x y = _ := hp
    have hc' : (blitRow b x0 y0 row).collision = true ↔ _ := hc
    have hd' : (blitRow b x0 y0 row).changed = true ↔ _ := hd
    refine ⟨fun x y => ?_, ?_, ?_⟩
    · simp only [blitRows]
      rw [ihp, hp']
      by_cases hyy : y = y0
      · subst hyy
        simp [spriteBit, Config.spriteWidth]
      · by_cases hlt : y < y0
        · have h1 : ¬ (y0 ≤ y) := by omega
          have h2 : ¬ (y0 + 1 ≤ y) := by omega
          simp [spriteBit, hyy, h1, h2]
        · obtain ⟨k, rfl⟩ : ∃ k, y = y0 + 1 + k := ⟨y - (y0 + 1), by omega⟩
          have h1 : y0 + 1 + k - y0 = k + 1 := by omega
          have h2 : y0 + 1 + k - (y0 + 1) = k := by omega
          have h3 : y0 ≤ y0 + 1 + k := by omega
          simp [spriteBit, hyy, h1, h2, h3]
    · simp only [blitRows]
      rw [ihc, hc']
      constructor
      · rintro ((h | ⟨c, h1, h2, h3⟩) | ⟨r, c, h1, h2, h3, h4⟩)
        · exact .inl h
        · exact .inr ⟨0, c, by omega, h1, by simpa using h2, by simpa using h3⟩
        · refine .inr ⟨r + 1, c, by omega, h2, by simpa using h3, ?_⟩
          rw [hp'] at h4
          have hn : ¬ (y0 + 1 + r = y0 ∧ x0 ≤ x0 + c ∧ x0 + c < x0 + Config.spriteWidth) := by omega
          simp only [hn, decide_false, Bool.false_and, Bool.xor_false] at h4
          rwa [show y0 + (r + 1) = y0 + 1 + r by omega]
      · rintro (h | ⟨r, c, h1, h2, h3, h4⟩)
        · exact .inl (.inl h)
        · cases r with
          | zero => exact .inl (.inr ⟨c, h2, by simpa using h3, by simpa using h4⟩)
          | succ r =>
            refine .inr ⟨r, c, by omega, h2, by simpa using h3, ?_⟩
            rw [hp']
            have hn : ¬ (y0 + 1 + r = y0 ∧ x0 ≤ x0 + c ∧ x0 + c < x0 + Config.spriteWidth) := by omega
            simp only [hn, decide_false, Bool.false_and, Bool.xor_false]
            rwa [show y0 + 1 + r = y0 + (r + 1) by omega]
    · simp only [blitRows]
      rw [ihd, hd']
      constructor
      · rintro ((h | ⟨c, h1, h2⟩) | ⟨r, c, h1, h2, h3⟩)
        · exact .inl h
        · exact .inr ⟨0, c, by omega, h1, by simpa using h2⟩
        · exact .inr ⟨r + 1, c, by omega, h2, by simpa using h3⟩
      · rintro (h | ⟨r, c, h1, h2, h3⟩)
        · exact .inl (.inl h)
        · cases r with
          | zero => exact .inl (.inr ⟨c, h2, by simpa using h3⟩)
          | succ r => exact .inr ⟨r, c, by omega, h2, by simpa using h3⟩

/-- While nothing has changed, the bitmap is as it was (R193, R31). -/
theorem blitBit_unchanged {b : Blit} {x y : Nat} {bit : Bool} (h : (blitBit b x y bit).changed = false) :
    blitBit b x y bit = b := by
  cases bit
  · rfl
  · simp [blitBit] at h

/-- As `blitBit_unchanged`, for the columns of a row. -/
theorem blitCols_unchanged {b : Blit} {x0 y : Nat} {row : Byte} {cs : List Nat}
    (h : (cs.foldl (fun acc c => blitBit acc (x0 + c) y (row.getLsbD (7 - c))) b).changed = false) :
    cs.foldl (fun acc c => blitBit acc (x0 + c) y (row.getLsbD (7 - c))) b = b := by
  induction cs generalizing b with
  | nil => rfl
  | cons c cs ih =>
    simp only [List.foldl_cons] at h ⊢
    have := ih h
    rw [this] at h ⊢
    exact blitBit_unchanged h

/-- As `blitBit_unchanged`, for a whole sprite. -/
theorem blitRows_unchanged {rows : List Byte} {b : Blit} {x0 y0 : Nat} (h : (blitRows b x0 y0 rows).changed = false) :
    blitRows b x0 y0 rows = b := by
  induction rows generalizing b y0 with
  | nil => rfl
  | cons row rows ih =>
    simp only [blitRows] at h ⊢
    have := ih h
    rw [this] at h ⊢
    exact blitCols_unchanged h

/-- A sprite fits the bitmap when no position of its rectangle is outside (R194). -/
theorem firstOff_none_iff {x0 y0 h : Nat} :
    firstOff x0 y0 h = none ↔
      h = 0 ∨ (x0 + Config.spriteWidth ≤ Config.displayWidth ∧ y0 + h ≤ Config.displayHeight) := by
  simp only [firstOff, List.find?_eq_none, spritePositions, List.mem_flatMap, List.mem_map, List.mem_range, offBitmap]
  constructor
  · intro H
    by_cases h0 : h = 0
    · exact .inl h0
    · right
      have h1 := H (x0 + 7, y0 + (h - 1)) ⟨h - 1, by omega, 7, by simp, rfl⟩
      simp only [decide_eq_true_eq, Config.displayWidth, Config.displayHeight, Config.spriteWidth] at h1 ⊢
      omega
  · rintro H p ⟨r, hr, c, hc, rfl⟩
    simp only [decide_eq_true_eq, Config.displayWidth, Config.displayHeight, Config.spriteWidth] at H hc ⊢
    omega

/-- The sprite bytes are the bytes from `I` on (R193). -/
theorem State.spriteBytes_getElem (s : State) {h r : Nat} (hr : r < h) :
    ((s.spriteBytes h)[r]?).getD 0 = s.loadAt r := by
  simp [State.spriteBytes, hr]

@[simp] theorem State.spriteBytes_length (s : State) (h : Nat) : (s.spriteBytes h).length = h := by
  simp [State.spriteBytes]

end Sys2Proof.Machine
end

