-- ==== Sys2Proof/Laws/Memory.lean ====
section
/-! SUPPORT. The laws of memory: read after write, the canonical form and that every operation keeps it. -/

namespace Sys2Proof.Machine

/-- A write leaves every other address alone, in any memory. -/
theorem Memory.read_write_ne {a b : Nat} (h : b ≠ a) (w : Byte) (m : Memory) :
    (m.write a w).read b = m.read b := by
  induction m with
  | nil =>
    simp only [Memory.write]
    split <;> simp [Memory.read, h]
  | cons c rest ih =>
    obtain ⟨d, u⟩ := c
    simp only [Memory.write]
    split
    · split <;> simp [Memory.read, h]
    · split
      · next h2 => subst h2; split <;> simp [Memory.read, h]
      · simp [Memory.read, ih]

/-- Below its first entry a canonical memory reads as the reset contents. -/
theorem Memory.read_of_lt {lo a : Nat} (h : a < lo) {m : Memory} (hm : m.wfFrom lo = true) : m.read a = resetByte a := by
  induction m generalizing lo with
  | nil => rfl
  | cons c rest ih =>
    obtain ⟨d, u⟩ := c
    simp only [Memory.wfFrom, Bool.and_eq_true, decide_eq_true_eq] at hm
    have hne : a ≠ d := by omega
    simp only [Memory.read, if_neg hne]
    exact ih (lo := d + 1) (by omega) hm.2

/-- A byte reads as last written (R60). -/
theorem Memory.read_write_same {lo : Nat} {m : Memory} (hm : m.wfFrom lo = true) (a : Nat) (w : Byte) :
    (m.write a w).read a = w := by
  induction m generalizing lo with
  | nil =>
    simp only [Memory.write]
    split
    · next h => simp [Memory.read, h]
    · simp [Memory.read]
  | cons c rest ih =>
    obtain ⟨d, u⟩ := c
    have hm' := hm
    simp only [Memory.wfFrom, Bool.and_eq_true, decide_eq_true_eq] at hm
    simp only [Memory.write]
    split
    · next hlt =>
      split
      · next h =>
        rw [h]
        exact Memory.read_of_lt (lo := d) hlt (by simp [Memory.wfFrom, hm])
      · simp [Memory.read]
    · split
      · next h2 =>
        subst h2
        split
        · next h => rw [h]; exact Memory.read_of_lt (Nat.lt_succ_self a) hm.2
        · simp [Memory.read]
      · next h2 => simpa [Memory.read, h2] using ih hm.2

/-- A write inside `Mem` at or above the bound keeps the canonical form from that bound. -/
theorem Memory.wfFrom_write {lo a : Nat} (hlo : lo ≤ a) (ha : a < Config.memSize) (w : Byte) {m : Memory}
    (hm : m.wfFrom lo = true) : (m.write a w).wfFrom lo = true := by
  induction m generalizing lo with
  | nil =>
    simp only [Memory.write]
    split
    · rfl
    · next h => simp [Memory.wfFrom, hlo, ha, h]
  | cons c rest ih =>
    obtain ⟨d, u⟩ := c
    simp only [Memory.wfFrom, Bool.and_eq_true, decide_eq_true_eq] at hm
    obtain ⟨⟨⟨h1, h2⟩, h3⟩, h4⟩ := hm
    simp only [Memory.write]
    split
    · next hlt =>
      split
      · simp [Memory.wfFrom, h1, h2, h3, h4]
      · next h =>
        simp only [Memory.wfFrom, Bool.and_eq_true, decide_eq_true_eq]
        exact ⟨⟨⟨hlo, ha⟩, h⟩, ⟨⟨hlt, h2⟩, h3⟩, h4⟩
    · split
      · next hge heq =>
        subst heq
        split
        · exact Memory.wfFrom_mono (by omega) h4
        · next h => simp [Memory.wfFrom, hlo, ha, h, h4]
      · next hge hne =>
        simp only [Memory.wfFrom, Bool.and_eq_true, decide_eq_true_eq]
        exact ⟨⟨⟨h1, h2⟩, h3⟩, ih (by omega) h4⟩
where
  Memory.wfFrom_mono {lo hi : Nat} (h : lo ≤ hi) {m : Memory} (hm : m.wfFrom hi = true) : m.wfFrom lo = true := by
    cases m with
    | nil => rfl
    | cons c rest =>
      obtain ⟨d, u⟩ := c
      simp only [Memory.wfFrom, Bool.and_eq_true, decide_eq_true_eq] at hm ⊢
      exact ⟨⟨⟨by omega, hm.1.1.2⟩, hm.1.2⟩, hm.2⟩

/-- `MemWrite` keeps the canonical form. -/
theorem Memory.wf_write {m : Memory} (hm : m.wf = true) {a : Nat} (ha : a < Config.memSize) (w : Byte) :
    (m.write a w).wf = true := Memory.wfFrom_write (Nat.zero_le a) ha w hm

/-- Ascending byte writes inside `Mem` keep the canonical form. -/
theorem Memory.wf_storeBytes {bs : List Byte} {m : Memory} (hm : m.wf = true) {a : Nat}
    (ha : a + bs.length ≤ Config.memSize) : (m.storeBytes a bs).wf = true := by
  induction bs generalizing m a with
  | nil => exact hm
  | cons b bs ih =>
    simp only [List.length_cons] at ha
    exact ih (Memory.wf_write hm (by omega) b) (by omega)

/-- Outside the stored bytes every address reads as before. -/
theorem Memory.read_storeBytes_of_outside {bs : List Byte} {m : Memory} {a b : Nat}
    (h : b < a ∨ a + bs.length ≤ b) : (m.storeBytes a bs).read b = m.read b := by
  induction bs generalizing m a with
  | nil => rfl
  | cons c bs ih =>
    simp only [List.length_cons] at h
    simp only [Memory.storeBytes]
    rw [ih (by omega), Memory.read_write_ne (by omega)]

/-- The stored bytes read back in order. -/
theorem Memory.read_storeBytes_inside {bs : List Byte} {m : Memory} (hm : m.wf = true) {a k : Nat}
    (hk : k < bs.length) (ha : a + bs.length ≤ Config.memSize) : (m.storeBytes a bs).read (a + k) = bs[k] := by
  induction bs generalizing m a k with
  | nil => simp at hk
  | cons c bs ih =>
    simp only [List.length_cons] at hk ha
    simp only [Memory.storeBytes]
    cases k with
    | zero =>
      rw [Memory.read_storeBytes_of_outside (by omega)]
      simpa using Memory.read_write_same hm a c
    | succ k =>
      have := ih (m := m.write a c) (Memory.wf_write hm (by omega) c) (a := a + 1) (k := k) (by omega) (by omega)
      simpa [Nat.add_assoc, Nat.add_comm 1 k] using this

/-- The font at `FONT_BASE` is what unwritten memory reads as there (R53). -/
theorem resetByte_font {j : Nat} (h : j < Config.fontSize) : resetByte (fontBase + j) = fontByte j := by
  have hb : fontBase + Config.fontSize ≤ Config.programBase := by
    have := Config.fontBase.isLt
    simp only [fontBase, Config.fontSize, Config.programBase]
    omega
  simp only [resetByte]
  rw [if_neg (by omega), if_pos (by omega), Nat.add_sub_cancel_left]

/-- From 0x200 on, unwritten memory reads as 0 (R53, R232). -/
theorem resetByte_program {a : Nat} (h : Config.programBase ≤ a) : resetByte a = 0 := by simp [resetByte, h]

/-- The font lies below the program: "font region and program region must not overlap" (R53). -/
theorem fontBase_le : fontBase + Config.fontSize ≤ Config.programBase := by
  have := Config.fontBase.isLt
  simp only [fontBase, Config.fontSize, Config.programBase]
  omega

end Sys2Proof.Machine
end

