-- ==== Sys2Proof/Laws/Ops.lean ====
section
/-! SUPPORT. One lemma for each shared operation that says all it can do: the bounds check, Draw's checks and effect, the register ranges,
the host calls, the poll, and the step. -/

namespace Sys2Proof.Machine

/-! ### the bounds check -/

/-- Inside memory the check passes (R57). -/
theorem State.checkTop_of_lt {s ok : State} {top : Nat} {name : String} (h : top < Config.memSize) :
    s.checkTop top name ok = ok := if_neg (by omega)

/-- At 4096 or above it faults with the address (R57, R202). -/
theorem State.checkTop_of_ge {s ok : State} {top : Nat} {name : String} (h : Config.memSize ≤ top) :
    s.checkTop top name ok = s.raise (.invalidAddress top name) := if_pos h

/-- All it can do. -/
theorem State.checkTop_cases (s ok : State) (top : Nat) (name : String) :
    (top < Config.memSize ∧ s.checkTop top name ok = ok) ∨
    (Config.memSize ≤ top ∧ s.checkTop top name ok = s.raise (.invalidAddress top name)) := by
  by_cases h : top < Config.memSize
  · exact .inl ⟨h, State.checkTop_of_lt h⟩
  · exact .inr ⟨by omega, State.checkTop_of_ge (by omega)⟩

/-! ### register ranges and digits -/

/-- A register after a RegLoad (R158). -/
theorem State.loadedRegs_get (s : State) (x k : Reg) :
    (s.loadedRegs x).get k = if k.val ≤ x.val then s.loadAt k.val else s.getV k := by
  simp [State.loadedRegs, State.getV, Vector.get_eq_getElem]

/-- How many bytes a RegDump stores (R157). -/
theorem State.lowRegs_length (s : State) (x : Reg) : (s.lowRegs x).length = x.val + 1 := by
  have := x.isLt
  simp only [State.lowRegs, List.length_take, Vector.length_toList]
  omega

/-- The byte a RegDump stores for a register (R157). -/
theorem State.lowRegs_getElem (s : State) (x k : Reg) (h : k.val < (s.lowRegs x).length) :
    (s.lowRegs x)[k.val] = s.getV k := by
  simp [State.lowRegs, State.getV, Vector.get_eq_getElem]

/-- A digit is the number it stands for (R155). -/
theorem toNat_decimalDigits (b : Byte) :
    (decimalDigits b).map BitVec.toNat = [b.toNat / 100, b.toNat / 10 % 10, b.toNat % 10] := by
  have := b.isLt
  simp only [decimalDigits, List.map_cons, List.map_nil, BitVec.toNat_ofNat]
  congr 1
  · omega
  · congr 1
    · omega
    · congr 1; omega

/-- `(a - b) mod 256` over the naturals (R130). -/
theorem toNat_wrapSub (a b : Byte) : (wrapSub a b).toNat = (a.toNat + 256 - b.toNat) % 256 := by
  have := a.isLt
  have := b.isLt
  simp only [wrapSub, BitVec.toNat_ofInt]
  omega

/-! ### Draw -/

/-- All three outcomes of Draw (R193, R194). -/
theorem exec_draw_cases (x y : Reg) (h : Fin 16) (s : State) :
    exec (.draw x y h) s = .next (s.drawSprite (s.getV x).toNat (s.getV y).toNat h.val).advance ∨
    (∃ a, 4096 ≤ a ∧ exec (.draw x y h) s = .next (s.raise (.invalidAddress a "Draw"))) ∨
    (∃ p : Nat × Nat, (64 ≤ p.1 ∨ 32 ≤ p.2) ∧ exec (.draw x y h) s = .next (s.raise (.pixelOutOfBounds p.1 p.2))) := by
  have checked : ∀ n, s.drawChecked (s.getV x).toNat (s.getV y).toNat n =
        (s.drawSprite (s.getV x).toNat (s.getV y).toNat n).advance ∨
      ∃ p : Nat × Nat, (64 ≤ p.1 ∨ 32 ≤ p.2) ∧
        s.drawChecked (s.getV x).toNat (s.getV y).toNat n = s.raise (.pixelOutOfBounds p.1 p.2) := by
    intro n
    unfold State.drawChecked
    cases hf : firstOff (s.getV x).toNat (s.getV y).toNat n with
    | none => exact .inl rfl
    | some p => exact .inr ⟨p, by simpa [offBitmap] using List.find?_some hf, rfl⟩
  simp only [exec, execDraw]
  by_cases h0 : h.val = 0
  · rw [if_pos h0, h0]
    obtain e | ⟨p, hp, e⟩ := checked 0
    · exact .inl (by rw [e])
    · exact .inr (.inr ⟨p, hp, by rw [e]⟩)
  · rw [if_neg h0]
    obtain ⟨-, e⟩ | ⟨hge, e⟩ := State.checkTop_cases s (s.drawChecked (s.getV x).toNat (s.getV y).toNat h.val)
      (s.effAddr (h.val - 1)) "Draw"
    · rw [e]
      obtain e | ⟨p, hp, e⟩ := checked h.val
      · exact .inl (by rw [e])
      · exact .inr (.inr ⟨p, hp, by rw [e]⟩)
    · exact .inr (.inl ⟨_, hge, by rw [e]⟩)

/-- Both outcomes of Draw's second check (R193, R194). -/
theorem State.drawChecked_cases (s : State) (x0 y0 h : Nat) :
    (firstOff x0 y0 h = none ∧ s.drawChecked x0 y0 h = (s.drawSprite x0 y0 h).advance) ∨
    (∃ p, firstOff x0 y0 h = some p ∧ s.drawChecked x0 y0 h = s.raise (.pixelOutOfBounds p.1 p.2)) := by
  unfold State.drawChecked
  cases hf : firstOff x0 y0 h with
  | none => exact .inl ⟨rfl, rfl⟩
  | some p => exact .inr ⟨p, rfl, rfl⟩

/-- A Draw that passes touches VF, the bitmap and redraw alone (R193). -/
theorem State.drawSprite_frame (s : State) (x0 y0 h : Nat) :
    s.drawSprite x0 y0 h =
      { s with v := (s.drawSprite x0 y0 h).v, fb := (s.drawSprite x0 y0 h).fb, redraw := (s.drawSprite x0 y0 h).redraw } := rfl

/-- Every register but VF is as before (R193). -/
theorem State.getV_drawSprite (s : State) (x0 y0 h : Nat) {k : Reg} (hk : k ≠ 15) :
    (s.drawSprite x0 y0 h).getV k = s.getV k := by
  simp only [State.drawSprite, State.getV_setV, vf, if_neg hk]
  rfl

/-- The blit behind a Draw (R193). -/
def State.blit (s : State) (x0 y0 h : Nat) : Blit :=
  blitRows { fb := s.fb, collision := false, changed := false } x0 y0 (s.spriteBytes h)

theorem State.drawSprite_fb (s : State) (x0 y0 h : Nat) : (s.drawSprite x0 y0 h).fb = (s.blit x0 y0 h).fb := rfl

theorem State.drawSprite_redraw (s : State) (x0 y0 h : Nat) :
    (s.drawSprite x0 y0 h).redraw = (s.redraw || (s.blit x0 y0 h).changed) := rfl

theorem State.drawSprite_vf (s : State) (x0 y0 h : Nat) :
    (s.drawSprite x0 y0 h).getV 15 = if (s.blit x0 y0 h).collision then 1 else 0 := by
  simp only [State.drawSprite, State.getV_setV, vf, if_true]
  rfl

/-! ### the host -/

/-- Asking for the keys touches the environment alone (R96, R175). -/
theorem State.consumeKeys_eq (s : State) : s.consumeKeys = { s with env := s.consumeKeys.env } := by
  unfold State.consumeKeys; split <;> rfl

/-- The owner's choice touches the environment alone (R91). -/
theorem State.consumeAgent_eq (s : State) : s.consumeAgent = { s with env := s.consumeAgent.env } := by
  unfold State.consumeAgent; split <;> rfl

/-- The flush touches the environment alone (R102). -/
theorem State.flush_eq (s : State) : s.flush = { s with env := s.flush.env } := by
  unfold State.flush; split <;> rfl

/-- A tick touches the timers and the environment alone (R211). -/
theorem State.tick_eq (s : State) : s.tick = { s with dt := s.tick.dt, st := s.tick.st, env := s.tick.env } := by
  unfold State.tick; dsimp only; split <;> rfl

/-- The owner's choice calls nobody (R216). -/
@[simp] theorem State.consumeAgent_calls (s : State) : s.consumeAgent.env.calls = s.env.calls := by
  unfold State.consumeAgent; split <;> rfl

/-- One `get_keys` call (R96, R175). -/
@[simp] theorem State.consumeKeys_calls (s : State) : s.consumeKeys.env.calls = .getKeys s.nextKeys :: s.env.calls := by
  unfold State.consumeKeys; split <;> rfl

/-- Taking a byte for Rand calls nobody (R143, R216). -/
@[simp] theorem State.consumeByte_calls (s : State) : s.consumeByte.env.calls = s.env.calls := by
  unfold State.consumeByte; split <;> rfl

/-- The flush (R102). -/
theorem State.flush_calls (s : State) :
    s.flush.env.calls = (if s.redraw then [.draw s.fb] else []) ++ s.env.calls := by
  unfold State.flush; cases s.redraw <;> rfl

/-- A tick's calls (R211). -/
theorem State.tick_calls (s : State) :
    s.tick.env.calls = (if s.st = 1 then [.playSound] else []) ++ s.env.calls := by
  unfold State.tick soundDue
  dsimp only
  by_cases h : s.st = 1
  · rw [if_pos (by simp [h]), if_pos h]
    rfl
  · rw [if_neg (by simpa using h), if_neg h]
    rfl

/-- A timer counts down to 0 and stays there (R211). -/
theorem toNat_countDown (t : Byte) : (countDown t).toNat = t.toNat - 1 := by
  unfold countDown
  split
  · next h => simp [h]
  · next h =>
    have h0 : t.toNat ≠ 0 := fun h' => h (BitVec.eq_of_toNat_eq h')
    have := t.isLt
    have h1 : (1 : Byte).toNat = 1 := rfl
    rw [BitVec.toNat_sub, h1]
    omega

/-! ### the poll -/

/-- No new key (R175). -/
theorem newKey_eq_none_iff {ref now : Keys} :
    newKey ref now = none ↔ ∀ k, k < 16 → ¬ (ref.getLsbD k = false ∧ now.getLsbD k = true) := by
  simp [newKey, List.find?_eq_none]

/-- `min(S)` (R175). -/
theorem newKey_eq_some_iff {ref now : Keys} {k : Nat} :
    newKey ref now = some k ↔ (k < 16 ∧ ref.getLsbD k = false ∧ now.getLsbD k = true) ∧
      ∀ j, j < k → ¬ (ref.getLsbD j = false ∧ now.getLsbD j = true) := by
  simp only [newKey, List.find?_range_eq_some, Bool.and_eq_true, Bool.not_eq_true', List.mem_range]
  constructor
  · rintro ⟨⟨h1, h2⟩, h3, h4⟩
    refine ⟨⟨h3, h1, h2⟩, fun j hj hh => ?_⟩
    have := h4 j hj
    simp [hh.1, hh.2] at this
  · rintro ⟨⟨h3, h1, h2⟩, h4⟩
    refine ⟨⟨h1, h2⟩, h3, fun j hj => ?_⟩
    have := h4 j hj
    cases hr : ref.getLsbD j <;> cases hn : now.getLsbD j <;> simp_all

/-- Both outcomes of a poll (R175). -/
theorem State.poll_cases (s : State) :
    (newKey s.waitRef s.nextKeys = none ∧ s.poll = s.consumeKeys) ∨
    (∃ k, newKey s.waitRef s.nextKeys = some k ∧
      s.poll = ({ (s.consumeKeys.setV s.waitX (BitVec.ofNat 8 k)).advance with status := .running } : State).flush) := by
  unfold State.poll State.pollWith
  rw [State.consumeKeys_waitRef]
  cases h : newKey s.waitRef s.nextKeys with
  | none => exact .inl ⟨rfl, rfl⟩
  | some k => exact .inr ⟨k, rfl, by simp⟩

/-! ### the step -/

/-- Every instruction answers a next state: a fault is one too (R206). -/
theorem exec_next (i : Instr) (s : State) : ∃ t, exec i s = .next t := by
  cases i <;> exact ⟨_, rfl⟩

/-- The test of step 1 (R93). -/
theorem State.opcodeAtPc_iff (s : State) : s.opcodeAtPc = true ↔ s.pc.toNat ≤ 4094 := by
  simp only [State.opcodeAtPc, decide_eq_true_eq, Config.memSize]
  omega

/-- A tick is next (R91, R211). -/
theorem step_of_tickNext {s : State} (h : s.TickNext) : step s = .next s.consumeAgent.tick := by
  obtain ⟨h1, h2⟩ := h
  simp [step, State.oneStep, h1, State.runAgent, h2]

/-- A cycle is next (R91, R92). -/
theorem step_of_cycleNext {s : State} (h : s.CycleNext) : step s = s.consumeAgent.cycle := by
  obtain ⟨h1, h2⟩ := h
  simp [step, State.oneStep, h1, State.runAgent, h2]

/-- Only a poll is enabled while waiting (R91). -/
theorem step_of_waiting {s : State} (h : s.status = .waiting) : step s = .next s.poll := by
  simp [step, State.oneStep, h]

/-- All a cycle can do: end the run, fault on the opcode, or run an instruction (R92). -/
theorem State.cycle_cases {s t : State} (h : s.cycle = .next t) :
    (¬ s.pc.toNat ≤ 4094 ∧ t = { s with status := .ended }) ∨
    (s.pc.toNat ≤ 4094 ∧ (∃ e, decode s.fetch = .error e) ∧ t = s.raise (.invalidOpcode s.fetch s.pc)) ∨
    (s.pc.toNat ≤ 4094 ∧ ∃ i u, decode s.fetch = .ok i ∧ exec i s.refreshKeys = .next u ∧ t = u.endOfCycle) := by
  unfold State.cycle at h
  by_cases hp : s.opcodeAtPc = true
  · have hp' := s.opcodeAtPc_iff.mp hp
    rw [if_pos hp] at h
    cases hd : decode s.fetch with
    | error e =>
      rw [hd] at h
      exact .inr (.inl ⟨hp', ⟨e, rfl⟩, by simpa using h.symm⟩)
    | ok i =>
      rw [hd] at h
      obtain ⟨u, hu⟩ := exec_next i s.refreshKeys
      simp only [hu, finishCycle] at h
      exact .inr (.inr ⟨hp', i, u, rfl, hu, by simpa using h.symm⟩)
  · rw [if_neg hp] at h
    refine .inl ⟨fun h' => hp (s.opcodeAtPc_iff.mpr h'), by simpa using h.symm⟩

/-- All a step can do (R91). -/
theorem step_cases {s t : State} (h : step s = .next t) :
    (s.TickNext ∧ t = s.consumeAgent.tick) ∨ (s.CycleNext ∧ s.consumeAgent.cycle = .next t) ∨
    (s.status = .waiting ∧ t = s.poll) := by
  cases hs : s.status with
  | running =>
    cases ha : s.nextAgent with
    | tick => exact .inl ⟨⟨hs, ha⟩, by rw [step_of_tickNext ⟨hs, ha⟩] at h; simpa using h.symm⟩
    | cycle => exact .inr (.inl ⟨⟨hs, ha⟩, by rw [step_of_cycleNext ⟨hs, ha⟩] at h; exact h⟩)
  | waiting => exact .inr (.inr ⟨rfl, by rw [step_of_waiting hs] at h; simpa using h.symm⟩)
  | ended => simp [step, State.oneStep, hs] at h
  | faulted k => simp [step, State.oneStep, hs] at h

end Sys2Proof.Machine
end

