-- ==== Sys2Proof/Laws/PerInstr.lean ====
section
/-! SUPPORT. Facts about every instruction as syntax, one lemma per constructor (LAWS.json). -/

/-- The opcode of a well-formed instruction belongs to the row of R76 that bears its mnemonic: `(op & mask) == match` (R74, R81). -/
def Sys2Proof.Laws.EncodesItsRow.Statement (i : Sys2Proof.Instr) : Prop :=
  i.wellFormed = true → ∃ r ∈ Sys2Proof.opcodeTable, r.mnemonic = i.mnemonic ∧ r.covers (Sys2Proof.encode i) = true

namespace Sys2Proof

/-- A row whose mask keeps the high nibble covers the words with its major opcode. -/
theorem covers_F000 (s : String) {k : Nat} (hk : k < 16) {op : Word} (h : nib op 0 0 = k) :
    (OpcodeRow.mk s (BitVec.ofNat 16 (4096 * k)) 0xF000).covers op = true := by
  rw [OpcodeRow.covers, beq_iff_eq]
  apply BitVec.eq_of_toNat_eq
  rw [toNat_and_F000, h, BitVec.toNat_ofNat, Nat.mod_eq_of_lt (by omega)]

/-- A row whose mask keeps the outer nibbles. -/
theorem covers_F00F (s : String) {k n : Nat} (hk : k < 16) (hn : n < 16) {op : Word} (h : nib op 0 0 = k)
    (h' : nib op 3 3 = n) : (OpcodeRow.mk s (BitVec.ofNat 16 (4096 * k + n)) 0xF00F).covers op = true := by
  rw [OpcodeRow.covers, beq_iff_eq]
  apply BitVec.eq_of_toNat_eq
  rw [toNat_and_F00F, h, h', BitVec.toNat_ofNat, Nat.mod_eq_of_lt (by omega)]

/-- A row whose mask keeps the high nibble and the low byte. -/
theorem covers_F0FF (s : String) {k n : Nat} (hk : k < 16) (hn : n < 256) {op : Word} (h : nib op 0 0 = k)
    (h' : nib op 2 3 = n) : (OpcodeRow.mk s (BitVec.ofNat 16 (4096 * k + n)) 0xF0FF).covers op = true := by
  rw [OpcodeRow.covers, beq_iff_eq]
  apply BitVec.eq_of_toNat_eq
  rw [toNat_and_F0FF, h, h', BitVec.toNat_ofNat, Nat.mod_eq_of_lt (by omega)]

/-- Format A lies in its row. -/
theorem formA_covers (s : String) (k : Nat) (hk : k < 16) {a : Word} (ha : addressOk a = true) :
    (OpcodeRow.mk s (BitVec.ofNat 16 (4096 * k)) 0xF000).covers (formA (4096 * k) a) = true :=
  covers_F000 s hk (by
    have ha' : a.toNat < 4096 := of_decide_eq_true ha
    rw [nib_00, toNat_formA k hk ha']; omega)

/-- Format XN lies in its row. -/
theorem formXN_covers (s : String) (k : Nat) (hk : k < 16) (x : Reg) (n : Byte) :
    (OpcodeRow.mk s (BitVec.ofNat 16 (4096 * k)) 0xF000).covers (formXN (4096 * k) x n) = true :=
  covers_F000 s hk (by have := x.isLt; have := n.isLt; rw [nib_00, toNat_formXN k hk x n]; omega)

/-- Format XYH lies in its row. -/
theorem formXYH_covers (s : String) (k : Nat) (hk : k < 16) (x y : Reg) (h : Fin 16) :
    (OpcodeRow.mk s (BitVec.ofNat 16 (4096 * k)) 0xF000).covers (formXYH (4096 * k) x y h) = true :=
  covers_F000 s hk (by rw [nib_00, toNat_formXYH k hk x y h]; omega)

/-- Format XY lies in its row. -/
theorem formXY_covers (s : String) (k n : Nat) (hk : k < 16) (hn : n < 16) (x y : Reg) :
    (OpcodeRow.mk s (BitVec.ofNat 16 (4096 * k + n)) 0xF00F).covers (formXY (4096 * k + n) x y) = true :=
  covers_F00F s hk hn (by rw [nib_00, toNat_formXY k n hk hn x y]; omega)
    (by rw [nib_33, toNat_formXY k n hk hn x y]; omega)

/-- Format X lies in its row, the minor opcode being the low byte. -/
theorem formX_covers (s : String) (k n : Nat) (hk : k < 16) (hn : n < 256) (x : Reg) :
    (OpcodeRow.mk s (BitVec.ofNat 16 (4096 * k + n)) 0xF0FF).covers (formX (4096 * k + n) x) = true :=
  covers_F0FF s hk hn (by rw [nib_00, toNat_formX k n hk hn x]; omega)
    (by rw [nib_23, toNat_formX k n hk hn x]; omega)

/-- Shr and Shl: the `Y` nibble, which the row leaves open (R78), is 0. -/
theorem formX_covers_anyY (s : String) (k n : Nat) (hk : k < 16) (hn : n < 16) (x : Reg) :
    (OpcodeRow.mk s (BitVec.ofNat 16 (4096 * k + n)) 0xF00F).covers (formX (4096 * k + n) x) = true :=
  covers_F00F s hk hn (by rw [nib_00, toNat_formX k n hk (by omega) x]; omega)
    (by rw [nib_33, toNat_formX k n hk (by omega) x]; omega)

end Sys2Proof

theorem Sys2Proof.Laws.EncodesItsRow.clearScreen :
    Sys2Proof.Laws.EncodesItsRow.Statement (.clearScreen) :=
  fun _ => ⟨⟨"ClearScreen", 0x00E0, 0xFFFF⟩, by decide, rfl, by decide⟩

theorem Sys2Proof.Laws.EncodesItsRow.ret :
    Sys2Proof.Laws.EncodesItsRow.Statement (.ret) :=
  fun _ => ⟨⟨"Return", 0x00EE, 0xFFFF⟩, by decide, rfl, by decide⟩

theorem Sys2Proof.Laws.EncodesItsRow.goto (a : Sys2Proof.Word) :
    Sys2Proof.Laws.EncodesItsRow.Statement (.goto a) :=
  fun h => ⟨⟨"Goto", 0x1000, 0xF000⟩, by decide, rfl, Sys2Proof.formA_covers _ 1 (by decide) h⟩

theorem Sys2Proof.Laws.EncodesItsRow.call (a : Sys2Proof.Word) :
    Sys2Proof.Laws.EncodesItsRow.Statement (.call a) :=
  fun h => ⟨⟨"Call", 0x2000, 0xF000⟩, by decide, rfl, Sys2Proof.formA_covers _ 2 (by decide) h⟩

theorem Sys2Proof.Laws.EncodesItsRow.skipEqConst (x : Sys2Proof.Reg) (n : Sys2Proof.Byte) :
    Sys2Proof.Laws.EncodesItsRow.Statement (.skipEqConst x n) :=
  fun _ => ⟨⟨"SkipEqConst", 0x3000, 0xF000⟩, by decide, rfl, Sys2Proof.formXN_covers _ 3 (by decide) x n⟩

theorem Sys2Proof.Laws.EncodesItsRow.skipNeqConst (x : Sys2Proof.Reg) (n : Sys2Proof.Byte) :
    Sys2Proof.Laws.EncodesItsRow.Statement (.skipNeqConst x n) :=
  fun _ => ⟨⟨"SkipNeqConst", 0x4000, 0xF000⟩, by decide, rfl, Sys2Proof.formXN_covers _ 4 (by decide) x n⟩

theorem Sys2Proof.Laws.EncodesItsRow.skipEq (x : Sys2Proof.Reg) (y : Sys2Proof.Reg) :
    Sys2Proof.Laws.EncodesItsRow.Statement (.skipEq x y) :=
  fun _ => ⟨⟨"SkipEq", 0x5000, 0xF00F⟩, by decide, rfl, Sys2Proof.formXY_covers _ 5 0 (by decide) (by decide) x y⟩

theorem Sys2Proof.Laws.EncodesItsRow.setConst (x : Sys2Proof.Reg) (n : Sys2Proof.Byte) :
    Sys2Proof.Laws.EncodesItsRow.Statement (.setConst x n) :=
  fun _ => ⟨⟨"SetConst", 0x6000, 0xF000⟩, by decide, rfl, Sys2Proof.formXN_covers _ 6 (by decide) x n⟩

theorem Sys2Proof.Laws.EncodesItsRow.addConst (x : Sys2Proof.Reg) (n : Sys2Proof.Byte) :
    Sys2Proof.Laws.EncodesItsRow.Statement (.addConst x n) :=
  fun _ => ⟨⟨"AddConst", 0x7000, 0xF000⟩, by decide, rfl, Sys2Proof.formXN_covers _ 7 (by decide) x n⟩

theorem Sys2Proof.Laws.EncodesItsRow.set (x : Sys2Proof.Reg) (y : Sys2Proof.Reg) :
    Sys2Proof.Laws.EncodesItsRow.Statement (.set x y) :=
  fun _ => ⟨⟨"Set", 0x8000, 0xF00F⟩, by decide, rfl, Sys2Proof.formXY_covers _ 8 0 (by decide) (by decide) x y⟩

theorem Sys2Proof.Laws.EncodesItsRow.or (x : Sys2Proof.Reg) (y : Sys2Proof.Reg) :
    Sys2Proof.Laws.EncodesItsRow.Statement (.or x y) :=
  fun _ => ⟨⟨"Or", 0x8001, 0xF00F⟩, by decide, rfl, Sys2Proof.formXY_covers _ 8 1 (by decide) (by decide) x y⟩

theorem Sys2Proof.Laws.EncodesItsRow.and (x : Sys2Proof.Reg) (y : Sys2Proof.Reg) :
    Sys2Proof.Laws.EncodesItsRow.Statement (.and x y) :=
  fun _ => ⟨⟨"And", 0x8002, 0xF00F⟩, by decide, rfl, Sys2Proof.formXY_covers _ 8 2 (by decide) (by decide) x y⟩

theorem Sys2Proof.Laws.EncodesItsRow.xor (x : Sys2Proof.Reg) (y : Sys2Proof.Reg) :
    Sys2Proof.Laws.EncodesItsRow.Statement (.xor x y) :=
  fun _ => ⟨⟨"Xor", 0x8003, 0xF00F⟩, by decide, rfl, Sys2Proof.formXY_covers _ 8 3 (by decide) (by decide) x y⟩

theorem Sys2Proof.Laws.EncodesItsRow.add (x : Sys2Proof.Reg) (y : Sys2Proof.Reg) :
    Sys2Proof.Laws.EncodesItsRow.Statement (.add x y) :=
  fun _ => ⟨⟨"Add", 0x8004, 0xF00F⟩, by decide, rfl, Sys2Proof.formXY_covers _ 8 4 (by decide) (by decide) x y⟩

theorem Sys2Proof.Laws.EncodesItsRow.sub (x : Sys2Proof.Reg) (y : Sys2Proof.Reg) :
    Sys2Proof.Laws.EncodesItsRow.Statement (.sub x y) :=
  fun _ => ⟨⟨"Sub", 0x8005, 0xF00F⟩, by decide, rfl, Sys2Proof.formXY_covers _ 8 5 (by decide) (by decide) x y⟩

theorem Sys2Proof.Laws.EncodesItsRow.shr (x : Sys2Proof.Reg) :
    Sys2Proof.Laws.EncodesItsRow.Statement (.shr x) :=
  fun _ => ⟨⟨"Shr", 0x8006, 0xF00F⟩, by decide, rfl, Sys2Proof.formX_covers_anyY _ 0x8 0x6 (by decide) (by decide) x⟩

theorem Sys2Proof.Laws.EncodesItsRow.inverseSub (x : Sys2Proof.Reg) (y : Sys2Proof.Reg) :
    Sys2Proof.Laws.EncodesItsRow.Statement (.inverseSub x y) :=
  fun _ => ⟨⟨"InverseSub", 0x8007, 0xF00F⟩, by decide, rfl, Sys2Proof.formXY_covers _ 8 7 (by decide) (by decide) x y⟩

theorem Sys2Proof.Laws.EncodesItsRow.shl (x : Sys2Proof.Reg) :
    Sys2Proof.Laws.EncodesItsRow.Statement (.shl x) :=
  fun _ => ⟨⟨"Shl", 0x800E, 0xF00F⟩, by decide, rfl, Sys2Proof.formX_covers_anyY _ 0x8 0xE (by decide) (by decide) x⟩

theorem Sys2Proof.Laws.EncodesItsRow.skipNeq (x : Sys2Proof.Reg) (y : Sys2Proof.Reg) :
    Sys2Proof.Laws.EncodesItsRow.Statement (.skipNeq x y) :=
  fun _ => ⟨⟨"SkipNeq", 0x9000, 0xF00F⟩, by decide, rfl, Sys2Proof.formXY_covers _ 9 0 (by decide) (by decide) x y⟩

theorem Sys2Proof.Laws.EncodesItsRow.setIndex (a : Sys2Proof.Word) :
    Sys2Proof.Laws.EncodesItsRow.Statement (.setIndex a) :=
  fun h => ⟨⟨"SetIndex", 0xA000, 0xF000⟩, by decide, rfl, Sys2Proof.formA_covers _ 10 (by decide) h⟩

theorem Sys2Proof.Laws.EncodesItsRow.offsetGoto (a : Sys2Proof.Word) :
    Sys2Proof.Laws.EncodesItsRow.Statement (.offsetGoto a) :=
  fun h => ⟨⟨"OffsetGoto", 0xB000, 0xF000⟩, by decide, rfl, Sys2Proof.formA_covers _ 11 (by decide) h⟩

theorem Sys2Proof.Laws.EncodesItsRow.rand (x : Sys2Proof.Reg) (n : Sys2Proof.Byte) :
    Sys2Proof.Laws.EncodesItsRow.Statement (.rand x n) :=
  fun _ => ⟨⟨"Rand", 0xC000, 0xF000⟩, by decide, rfl, Sys2Proof.formXN_covers _ 12 (by decide) x n⟩

theorem Sys2Proof.Laws.EncodesItsRow.draw (x : Sys2Proof.Reg) (y : Sys2Proof.Reg) (h : Fin 16) :
    Sys2Proof.Laws.EncodesItsRow.Statement (.draw x y h) :=
  fun _ => ⟨⟨"Draw", 0xD000, 0xF000⟩, by decide, rfl, Sys2Proof.formXYH_covers _ 13 (by decide) x y h⟩

theorem Sys2Proof.Laws.EncodesItsRow.skipKey (x : Sys2Proof.Reg) :
    Sys2Proof.Laws.EncodesItsRow.Statement (.skipKey x) :=
  fun _ => ⟨⟨"SkipKey", 0xE09E, 0xF0FF⟩, by decide, rfl, Sys2Proof.formX_covers _ 0xE 0x9E (by decide) (by decide) x⟩

theorem Sys2Proof.Laws.EncodesItsRow.skipNotKey (x : Sys2Proof.Reg) :
    Sys2Proof.Laws.EncodesItsRow.Statement (.skipNotKey x) :=
  fun _ => ⟨⟨"SkipNotKey", 0xE0A1, 0xF0FF⟩, by decide, rfl, Sys2Proof.formX_covers _ 0xE 0xA1 (by decide) (by decide) x⟩

theorem Sys2Proof.Laws.EncodesItsRow.getDelay (x : Sys2Proof.Reg) :
    Sys2Proof.Laws.EncodesItsRow.Statement (.getDelay x) :=
  fun _ => ⟨⟨"GetDelay", 0xF007, 0xF0FF⟩, by decide, rfl, Sys2Proof.formX_covers _ 0xF 0x7 (by decide) (by decide) x⟩

theorem Sys2Proof.Laws.EncodesItsRow.waitKey (x : Sys2Proof.Reg) :
    Sys2Proof.Laws.EncodesItsRow.Statement (.waitKey x) :=
  fun _ => ⟨⟨"WaitKey", 0xF00A, 0xF0FF⟩, by decide, rfl, Sys2Proof.formX_covers _ 0xF 0xA (by decide) (by decide) x⟩

theorem Sys2Proof.Laws.EncodesItsRow.setDelay (x : Sys2Proof.Reg) :
    Sys2Proof.Laws.EncodesItsRow.Statement (.setDelay x) :=
  fun _ => ⟨⟨"SetDelay", 0xF015, 0xF0FF⟩, by decide, rfl, Sys2Proof.formX_covers _ 0xF 0x15 (by decide) (by decide) x⟩

theorem Sys2Proof.Laws.EncodesItsRow.setSound (x : Sys2Proof.Reg) :
    Sys2Proof.Laws.EncodesItsRow.Statement (.setSound x) :=
  fun _ => ⟨⟨"SetSound", 0xF018, 0xF0FF⟩, by decide, rfl, Sys2Proof.formX_covers _ 0xF 0x18 (by decide) (by decide) x⟩

theorem Sys2Proof.Laws.EncodesItsRow.addIndex (x : Sys2Proof.Reg) :
    Sys2Proof.Laws.EncodesItsRow.Statement (.addIndex x) :=
  fun _ => ⟨⟨"AddIndex", 0xF01E, 0xF0FF⟩, by decide, rfl, Sys2Proof.formX_covers _ 0xF 0x1E (by decide) (by decide) x⟩

theorem Sys2Proof.Laws.EncodesItsRow.setIndexChar (x : Sys2Proof.Reg) :
    Sys2Proof.Laws.EncodesItsRow.Statement (.setIndexChar x) :=
  fun _ => ⟨⟨"SetIndexChar", 0xF029, 0xF0FF⟩, by decide, rfl, Sys2Proof.formX_covers _ 0xF 0x29 (by decide) (by decide) x⟩

theorem Sys2Proof.Laws.EncodesItsRow.bcd (x : Sys2Proof.Reg) :
    Sys2Proof.Laws.EncodesItsRow.Statement (.bcd x) :=
  fun _ => ⟨⟨"BCD", 0xF033, 0xF0FF⟩, by decide, rfl, Sys2Proof.formX_covers _ 0xF 0x33 (by decide) (by decide) x⟩

theorem Sys2Proof.Laws.EncodesItsRow.regDump (x : Sys2Proof.Reg) :
    Sys2Proof.Laws.EncodesItsRow.Statement (.regDump x) :=
  fun _ => ⟨⟨"RegDump", 0xF055, 0xF0FF⟩, by decide, rfl, Sys2Proof.formX_covers _ 0xF 0x55 (by decide) (by decide) x⟩

theorem Sys2Proof.Laws.EncodesItsRow.regLoad (x : Sys2Proof.Reg) :
    Sys2Proof.Laws.EncodesItsRow.Statement (.regLoad x) :=
  fun _ => ⟨⟨"RegLoad", 0xF065, 0xF0FF⟩, by decide, rfl, Sys2Proof.formX_covers _ 0xF 0x65 (by decide) (by decide) x⟩
end

