-- ==== Sys2Proof/Tests/Slice0.lean ====
section
/-! SUPPORT. Tests of the model by hand, and a witness for the hypotheses of every statement that has any. The expected values of a test `T<n>` and
of the decoder tests are those of spec/95_test_vectors.md, which computed them outside this model; each test is one step. -/

namespace Sys2Proof.Tests

open Sys2Proof Sys2Proof.Machine

/-! ## Helpers -/

/-- A register file from the listed registers, the others 0. -/
def regs (l : List (Reg × Byte)) : Vector Byte 16 := l.foldl (fun v p => v.set p.1.val p.2 p.1.isLt) (Vector.replicate 16 0)

/-- The reset state with a cycle as the next step, the answer 0x0010 (key 4 down) to the next `get_keys`, and 0xA7 as the next `draw8()`. -/
def base : State :=
  { State.reset with env := { Env.reset with schedule := [.cycle], keyAnswers := [0x0010], randBytes := [0xA7] } }

/-- `base` with registers. -/
def withRegs (l : List (Reg × Byte)) : State := { base with v := regs l }

/-- `base` with registers and `I`. -/
def withI (i : Word) (l : List (Reg × Byte)) : State := { withRegs l with i := i }

/-- A state with bytes put into memory. -/
def poke (s : State) (a : Nat) (bs : List Byte) : State := { s with mem := s.mem.storeBytes a bs }

/-- What `f` reads after one step that answers a next state. -/
def after {α : Type} (s : State) (f : State → α) : Option α :=
  match step s with
  | .next t => some (f t)
  | .fault _ => none
  | .refused _ => none

/-- What `f` reads after the one cycle that runs the opcode `w`, put at `PC`. -/
def run {α : Type} (w : Word) (s : State) (f : State → α) : Option α := after (poke s s.pc.toNat (wordBytes w)) f

/-- What `f` reads after an instruction, outside any cycle. -/
def did {α : Type} (i : Instr) (s : State) (f : State → α) : Option α :=
  match exec i s with
  | .next t => some (f t)
  | .fault _ => none
  | .refused _ => none

/-! ## WellFormed: an ill-formed term for each check is refused -/

theorem test_illformed_goto : (Instr.goto 0x1000).wellFormed = false := by decide
theorem test_illformed_call : (Instr.call 0xFFFF).wellFormed = false := by decide
theorem test_illformed_setIndex : (Instr.setIndex 0x1000).wellFormed = false := by decide
theorem test_illformed_offsetGoto : (Instr.offsetGoto 0x8000).wellFormed = false := by decide
theorem test_wellformed_largest_address : (Instr.goto 0xFFF).wellFormed = true := by decide

/-! ## Decoding: a word of every constructor, written out from the encodings (95_test_vectors.md section 2.1) -/

theorem test_decode_clearScreen : decodeTableWord 16 0x00E0 = some .clearScreen := by decide
theorem test_decode_return : decodeTableWord 16 0x00EE = some .ret := by decide
theorem test_decode_goto : decodeTableWord 16 0x1ABC = some (.goto 0xABC) := by decide
theorem test_decode_call : decodeTableWord 16 0x2ABC = some (.call 0xABC) := by decide
theorem test_decode_skipEqConst : decodeTableWord 16 0x3A7F = some (.skipEqConst 10 0x7F) := by decide
theorem test_decode_skipNeqConst : decodeTableWord 16 0x4F00 = some (.skipNeqConst 15 0x00) := by decide
theorem test_decode_skipEq : decodeTableWord 16 0x5120 = some (.skipEq 1 2) := by decide
theorem test_decode_setConst : decodeTableWord 16 0x6C01 = some (.setConst 12 0x01) := by decide
theorem test_decode_addConst : decodeTableWord 16 0x7DFF = some (.addConst 13 0xFF) := by decide
theorem test_decode_set : decodeTableWord 16 0x8AB0 = some (.set 10 11) := by decide
theorem test_decode_or : decodeTableWord 16 0x8AB1 = some (.or 10 11) := by decide
theorem test_decode_and : decodeTableWord 16 0x8AB2 = some (.and 10 11) := by decide
theorem test_decode_xor : decodeTableWord 16 0x8AB3 = some (.xor 10 11) := by decide
theorem test_decode_add : decodeTableWord 16 0x8AB4 = some (.add 10 11) := by decide
theorem test_decode_sub : decodeTableWord 16 0x8AB5 = some (.sub 10 11) := by decide
theorem test_decode_shr : decodeTableWord 16 0x8AB6 = some (.shr 10) := by decide
theorem test_decode_inverseSub : decodeTableWord 16 0x8AB7 = some (.inverseSub 10 11) := by decide
theorem test_decode_shl : decodeTableWord 16 0x8ABE = some (.shl 10) := by decide
theorem test_decode_skipNeq : decodeTableWord 16 0x9AB0 = some (.skipNeq 10 11) := by decide
theorem test_decode_setIndex : decodeTableWord 16 0xA123 = some (.setIndex 0x123) := by decide
theorem test_decode_offsetGoto : decodeTableWord 16 0xBFFF = some (.offsetGoto 0xFFF) := by decide
theorem test_decode_rand : decodeTableWord 16 0xC3F0 = some (.rand 3 0xF0) := by decide
theorem test_decode_draw : decodeTableWord 16 0xD015 = some (.draw 0 1 5) := by decide
theorem test_decode_skipKey : decodeTableWord 16 0xE09E = some (.skipKey 0) := by decide
theorem test_decode_skipNotKey : decodeTableWord 16 0xEFA1 = some (.skipNotKey 15) := by decide
theorem test_decode_getDelay : decodeTableWord 16 0xF007 = some (.getDelay 0) := by decide
theorem test_decode_waitKey : decodeTableWord 16 0xF10A = some (.waitKey 1) := by decide
theorem test_decode_setDelay : decodeTableWord 16 0xF215 = some (.setDelay 2) := by decide
theorem test_decode_setSound : decodeTableWord 16 0xF318 = some (.setSound 3) := by decide
theorem test_decode_addIndex : decodeTableWord 16 0xF41E = some (.addIndex 4) := by decide
theorem test_decode_setIndexChar : decodeTableWord 16 0xF529 = some (.setIndexChar 5) := by decide
theorem test_decode_bcd : decodeTableWord 16 0xF633 = some (.bcd 6) := by decide
theorem test_decode_regDump : decodeTableWord 16 0xF755 = some (.regDump 7) := by decide
theorem test_decode_regLoad : decodeTableWord 16 0xFF65 = some (.regLoad 15) := by decide

/-- The illegal opcodes of the same table. -/
theorem test_decode_illegal :
    ([0x0000, 0x00E1, 0x00EF, 0x00FD, 0x01E0, 0x0FFF, 0x5121, 0x512F, 0x8AB8, 0x8AB9, 0x8ABA, 0x8ABD, 0x8ABF, 0x9AB1, 0xE09F, 0xE000,
      0xE1A0, 0xF000, 0xF3FF, 0xF030, 0xF075, 0xF085, 0xF01F].all fun w => (decodeTableWord 16 w).isNone) = true := by decide

/-- Fewer than two bytes are no opcode (R93), and bytes after an instruction are handed on (R70). -/
theorem test_decode_bytes :
    decodeBytes [0x12] = .error .noOpcode ∧ decodeBytes [0x1A, 0xBC, 0x60] = .ok (.goto 0xABC, [0x60]) := by decide

/-- The program of T165 as its bytes (R81). -/
theorem test_encode_program : encodeProgram [.goto 0x200, .shr 3] = [0x12, 0x00, 0x83, 0x06] := by decide

/-! ## ALU -/

theorem test_T12_setConst : run 0x6A2C base (fun t => (t.getV 10, t.pc)) = some (0x2C, 0x202) := by decide
theorem test_T15_addConst : run 0x70FF (withRegs [(15, 1)]) (fun t => (t.getV 0, t.getV 15)) = some (0xFF, 1) := by decide
theorem test_T16_addConst_vf : run 0x7F02 (withRegs [(15, 0xFF)]) (fun t => t.getV 15) = some 1 := by decide
theorem test_T17_set : run 0x8210 (withRegs [(1, 0x37)]) (fun t => (t.getV 2, t.getV 1)) = some (0x37, 0x37) := by decide
theorem test_T19_or : run 0x8121 (withRegs [(1, 0xF0), (2, 0x3C), (15, 1)]) (fun t => (t.getV 1, t.getV 15)) = some (0xFC, 1) := by decide
theorem test_T20_and : run 0x8122 (withRegs [(1, 0xF0), (2, 0x3C), (15, 1)]) (fun t => (t.getV 1, t.getV 15)) = some (0x30, 1) := by decide
theorem test_T21_xor : run 0x8123 (withRegs [(1, 0xF0), (2, 0x3C), (15, 1)]) (fun t => (t.getV 1, t.getV 15)) = some (0xCC, 1) := by decide
theorem test_T24_add : run 0x8124 (withRegs [(1, 0x10), (2, 0x20), (15, 1)]) (fun t => (t.getV 1, t.getV 15)) = some (0x30, 0) := by decide
theorem test_T30_add_vf : run 0x81F4 (withRegs [(1, 0xFF), (15, 1)]) (fun t => (t.getV 1, t.getV 15)) = some (0, 1) := by decide
theorem test_T32_sub : run 0x8125 (withRegs [(1, 3), (2, 5)]) (fun t => (t.getV 1, t.getV 15)) = some (0xFE, 0) := by decide
theorem test_T37_sub_vf : run 0x8F15 (withRegs [(1, 5), (15, 9)]) (fun t => (t.getV 1, t.getV 15)) = some (5, 1) := by decide
theorem test_T39_inverseSub : run 0x8127 (withRegs [(1, 5), (2, 3)]) (fun t => (t.getV 1, t.getV 15)) = some (0xFE, 0) := by decide
theorem test_T40_inverseSub_equal : run 0x8127 (withRegs [(1, 5), (2, 5)]) (fun t => (t.getV 1, t.getV 15)) = some (0, 1) := by decide
theorem test_T43_shr : run 0x83F6 (withRegs [(3, 5)]) (fun t => (t.getV 3, t.getV 15)) = some (2, 1) := by decide
theorem test_T48_shr_vf : run 0x8F06 (withRegs [(15, 2)]) (fun t => t.getV 15) = some 0 := by decide
theorem test_T49_shl : run 0x830E (withRegs [(3, 0x81)]) (fun t => (t.getV 3, t.getV 15)) = some (2, 1) := by decide
theorem test_T54_shl_vf : run 0x8F0E (withRegs [(15, 0x7F)]) (fun t => t.getV 15) = some 0 := by decide
theorem test_T55_rand : run 0xC30F base (fun t => (t.getV 3, t.env.randBytes)) = some (0x07, []) := by decide

/-! ## Control transfer -/

theorem test_T60_return :
    run 0x00EE { base with pc := 0x20A, stack := [0x300, 0x204] } (fun t => (t.pc, t.stack)) = some (0x300, [0x204]) := by decide
theorem test_T61_return_empty : run 0x00EE { base with pc := 0x20A } (fun t => (t.pc, t.stack, t.status)) = some (0x20A, [], .running) := by decide
theorem test_T65_goto : run 0x1FFF base (fun t => t.pc) = some 0xFFF := by decide
theorem test_T68_call : run 0x2300 { base with pc := 0xFFE } (fun t => (t.pc, t.stack)) = some (0x300, [0x1000]) := by decide
theorem test_T74_offsetGoto : run 0xBB00 (withRegs [(11, 0x77)]) (fun t => t.pc) = some 0xB00 := by decide
theorem test_T72_offsetGoto_fault :
    run 0xBF01 (withRegs [(0, 0xFF)]) (fun t => (t.status, t.pc)) = some (.faulted (.invalidAddress 0x1000 "OffsetGoto"), 0x200) := by decide
theorem test_T86_skipEqConst : run 0x3000 { base with pc := 0xFFE } (fun t => t.pc) = some 0x1002 := by decide
theorem test_T76_skipEqConst : run 0x332B (withRegs [(3, 0x2A)]) (fun t => t.pc) = some 0x202 := by decide
theorem test_T77_skipNeqConst : run 0x432A (withRegs [(3, 0x2A)]) (fun t => t.pc) = some 0x202 := by decide
theorem test_T78_skipNeqConst : run 0x432B (withRegs [(3, 0x2A)]) (fun t => t.pc) = some 0x204 := by decide
theorem test_T80_skipEq : run 0x5120 (withRegs [(1, 7), (2, 7)]) (fun t => t.pc) = some 0x204 := by decide
theorem test_T81_skipEq : run 0x5120 (withRegs [(1, 7), (2, 8)]) (fun t => t.pc) = some 0x202 := by decide
theorem test_T83_skipNeq : run 0x9120 (withRegs [(1, 7), (2, 8)]) (fun t => t.pc) = some 0x204 := by decide
theorem test_T85_skipNeq : run 0x9440 (withRegs [(4, 9)]) (fun t => t.pc) = some 0x202 := by decide

/-! ## Index register and memory -/

theorem test_T89_setIndex : run 0xAFFF (withI 0x1234 []) (fun t => t.i) = some 0xFFF := by decide
theorem test_T91_addIndex : run 0xF21E (withI 0xFFFF [(2, 2)]) (fun t => (t.i, t.getV 15)) = some (1, 0) := by decide
theorem test_T92_addIndex_vf : run 0xFF1E (withI 0x100 [(15, 0x10)]) (fun t => (t.i, t.getV 15)) = some (0x110, 0x10) := by decide
theorem test_T94_setIndexChar : run 0xF429 (withRegs [(4, 0x0A)]) (fun t => t.i == BitVec.ofNat 16 (fontBase + 50)) = some true := by
  show some (glyphAddr 0x0A == BitVec.ofNat 16 (fontBase + 50)) = some true
  simp [glyphAddr, Config.glyphBytes]
theorem test_T96_setIndexChar : run 0xF429 (withRegs [(4, 0x10)]) (fun t => (t.status, t.i)) = some (.faulted (.unknownCharacter 0x10), 0) := by decide
theorem test_T103_bcd :
    run 0xF533 (withI 0xFFD [(5, 0x7B)]) (fun t => (t.mem.read 0xFFD, t.mem.read 0xFFE, t.mem.read 0xFFF)) = some (1, 2, 3) := by decide
theorem test_T105_bcd :
    run 0xF533 (withI 0xFFFF [(5, 0x7B)]) (fun t => t.status) = some (.faulted (.invalidAddress 0x10001 "BCD")) := by decide
theorem test_T106_regDump :
    run 0xF155 (withI 0x300 [(0, 0x1F), (1, 0xFF), (2, 0x55)]) (fun t => (t.mem.read 0x300, t.mem.read 0x301, t.mem.read 0x302, t.i)) =
      some (0x1F, 0xFF, 0, 0x300) := by decide
theorem test_T109_regDump : run 0xFF55 (withI 0xFF1 [(0, 0xA0)]) (fun t => (t.status, t.mem.read 0xFF1)) =
    some (.faulted (.invalidAddress 0x1000 "RegDump"), 0) := by decide
theorem test_T112_regLoad :
    run 0xF265 (poke (withI 0x300 []) 0x300 [2, 5, 4, 9]) (fun t => (t.getV 0, t.getV 1, t.getV 2, t.getV 3)) = some (2, 5, 4, 0) := by decide
theorem test_T115_regLoad : run 0xFF65 (withI 0xFF1 []) (fun t => t.status) = some (.faulted (.invalidAddress 0x1000 "RegLoad")) := by decide

/-! ## Timers and keys -/

theorem test_T117_getDelay : run 0xF507 { base with dt := 0x3C } (fun t => (t.getV 5, t.dt)) = some (0x3C, 0x3C) := by decide
theorem test_T118_setDelay : run 0xF515 (withRegs [(5, 0x3C)]) (fun t => (t.dt, t.st)) = some (0x3C, 0) := by decide
theorem test_T121_setSound : run 0xF518 { base with st := 5 } (fun t => (t.st, t.env.calls)) = some (0, [.getKeys 0x0010]) := by decide
theorem test_T122_skipKey : run 0xE29E (withRegs [(2, 4)]) (fun t => t.pc) = some 0x204 := by decide
theorem test_T126_skipKey :
    run 0xE29E (withRegs [(2, 0x10)]) (fun t => (t.status, t.keys)) = some (.faulted (.unknownKey 0x10 "SkipKey"), 0x0010) := by decide
theorem test_T127_skipNotKey : run 0xE2A1 (withRegs [(2, 4)]) (fun t => t.pc) = some 0x202 := by decide
theorem test_T129_skipNotKey :
    run 0xE2A1 (withRegs [(2, 0xFF)]) (fun t => t.status) = some (.faulted (.unknownKey 0xFF "SkipNotKey")) := by decide
theorem test_T130_waitKey :
    run 0xF30A base (fun t => (t.status, t.waitX, t.waitRef, t.pc)) = some (.waiting, 3, 0x0010, 0x200) := by decide

/-- A WaitKey of V3 that saw 0x0010 at entry, and its next answer. -/
def waitingFor (answer : Keys) : State :=
  { base with status := .waiting, waitX := 3, waitRef := 0x0010, env := { Env.reset with keyAnswers := [answer] } }

theorem test_T139_poll_waits : after (waitingFor 0x0010) (fun t => (t.status, t.getV 3, t.pc)) = some (.waiting, 0, 0x200) := by decide
theorem test_T139_poll_completes : after (waitingFor 0x0090) (fun t => (t.status, t.getV 3, t.pc)) = some (.running, 7, 0x202) := by decide

/-- A tick at the given timers. -/
def ticking (dt st : Byte) : State := { base with dt := dt, st := st, env := { Env.reset with schedule := [.tick] } }

theorem test_T134_tick : after (ticking 1 1) (fun t => (t.dt, t.st, t.env.calls)) = some (0, 0, [.playSound]) := by decide
theorem test_T135_tick : after (ticking 5 2) (fun t => (t.dt, t.st, t.env.calls)) = some (4, 1, []) := by decide
theorem test_T131_tick : after (ticking 0 0) (fun t => (t.dt, t.st, t.env.calls)) = some (0, 0, []) := by decide

/-! ## Display -/

/-- Two pixels set, as in T144. -/
def twoPixels : Machine.Frame := (Machine.Frame.clear.setPx 0 0 true).setPx 63 31 true

theorem test_T144_clearScreen :
    run 0x00E0 { base with fb := twoPixels } (fun t => (t.fb.px 0 0, t.fb.px 63 31, t.redraw, t.env.calls.length)) =
      some (false, false, true, 2) := by decide
theorem test_T163_draw :
    run 0xD011 (poke (withI 0x300 [(0, 0x38), (1, 0x1F)]) 0x300 [0x81]) (fun t => (t.fb.px 56 31, t.fb.px 57 31, t.fb.px 63 31, t.getV 15)) =
      some (true, false, true, 0) := by decide
theorem test_T147_draw_collision :
    run 0xD011 (poke { withI 0x300 [] with fb := twoPixels } 0x300 [0xF0]) (fun t => (t.fb.px 0 0, t.fb.px 1 0, t.getV 15, t.redraw)) =
      some (false, true, 1, true) := by decide
theorem test_T150_draw_fault :
    run 0xD015 (withI 0x300 [(1, 0x1C)]) (fun t => (t.status, t.getV 15)) = some (.faulted (.pixelOutOfBounds 0 32), 0) := by decide
theorem test_T160_draw_fault :
    run 0xD013 (withI 0xFFE [(0, 0x3C)]) (fun t => t.status) = some (.faulted (.invalidAddress 0x1000 "Draw")) := by decide
theorem test_T156_draw_no_rows :
    run 0xD010 (withI 0x300 [(0, 0xC8), (1, 0xC8), (15, 7)]) (fun t => (t.getV 15, t.redraw)) = some (0, false) := by decide

/-! ## Cycle, reset, and a word placed for the next step -/

theorem test_T5_ended : after { base with pc := 0xFFF, redraw := true } (fun t => (t.status, t.pc, t.env.calls)) = some (.ended, 0xFFF, []) := by decide
theorem test_T7_illegal : after { base with pc := 0x20E } (fun t => (t.status, t.keys)) = some (.faulted (.invalidOpcode 0 0x20E), 0) := by decide
theorem test_T8_odd_pc : run 0x6A2C { base with pc := 0x203 } (fun t => (t.getV 10, t.pc)) = some (0x2C, 0x205) := by decide
theorem test_T10_flush : run 0x6A2C { base with redraw := true } (fun t => t.env.calls) = some [.draw Machine.Frame.clear, .getKeys 0x0010] := by decide
theorem test_T167_too_large :
    (construct (List.replicate 3584 0)).status = .faulted (.programTooLarge 3584 3584) := by
  rw [construct, List.length_replicate]
  rfl
theorem test_T165_load : ((construct [0x12, 0x00]).mem.read 0x200, (construct [0x12, 0x00]).mem.read 0x201, (construct [0x12, 0x00]).status) =
    (0x12, 0x00, .running) := by decide
theorem test_fault_ordinals :
    ([FaultKind.programTooLarge 0 0, .invalidOpcode 0 0, .invalidAddress 0 "", .unknownCharacter 0, .unknownKey 0 "", .pixelOutOfBounds 0 0].map
      FaultKind.ordinal) = [0, 1, 2, 3, 4, 5] := by decide

/-- A word placed after reset is what the next step runs; the answer of `get_keys` is then a free value, which these do not read. -/
theorem test_place_setConst : after (State.reset.withFetchWord 16 0x6A2C) (fun t => (t.getV 10, t.pc)) = some (0x2C, 0x202) := by decide
theorem test_place_at_the_end :
    after ({ State.reset with pc := 0xFFF } |>.withFetchWord 16 0x1ABC) (fun t => t.pc) = some 0xABC := by decide

/-! ## Witnesses: a state and operands that meet the hypotheses of each statement, clause by clause at the edge of its range -/

/-! ### encoding -/

theorem witness_DecodeOfEncodeIsTheInstruction : (Instr.offsetGoto 0xFFF).wellFormed = true ∧ (Instr.draw 15 0 15).wellFormed = true := by decide
theorem witness_DecodedInstructionReencodes :
    decode 0xDFFF = .ok (.draw 15 15 15) ∧ decode 0x83F6 = .ok (.shr 3) ∧ (0x83F6 : Word) &&& 0xF00F = 0x8006 := by decide
theorem witness_DecoderAgreesWithTheOpcodeTable :
    decode 0xA123 = .ok (.setIndex 0x123) ∧ (opcodeTable.all fun r => !r.covers 0x512F) = true := by decide
theorem witness_NoOpcodeMatchesTwoRows : (⟨"Shr", 0x8006, 0xF00F⟩ : OpcodeRow) ∈ opcodeTable ∧
    (⟨"Shr", 0x8006, 0xF00F⟩ : OpcodeRow).covers 0x83F6 = true := by decide
theorem witness_OnlyShiftsIgnoreANibble : decode 0x8306 = .ok (.shr 3) ∧ decode 0x83F6 = .ok (.shr 3) ∧ (0x8306 : Word) ≠ 0x83F6 := by decide

/-! ### registers and control -/

theorem witness_AddGivesSumAndCarry : (14 : Reg) ≠ 15 ∧ (13 : Reg) ≠ 14 ∧ (13 : Reg) ≠ 15 := by decide
theorem witness_SubtractionsGiveDifferenceAndBorrow : (0 : Reg) ≠ 15 ∧ (14 : Reg) ≠ 0 ∧ (14 : Reg) ≠ 15 := by decide
theorem witness_ShiftsGiveResultAndBitShiftedOut : (14 : Reg) ≠ 15 ∧ (0 : Reg) ≠ 14 ∧ (0 : Reg) ≠ 15 := by decide
theorem witness_RandMasksTheSuppliedByte : base.env.randBytes = 0xA7 :: [] ∧ (0xF0 : Byte).getLsbD 3 = false := by decide
theorem witness_FlagValuesAreZeroOrOne_alu :
    (Instr.add 1 2).mnemonic ∈ ["Add", "Sub", "InverseSub", "Shr", "Shl", "Draw"] ∧
      did (.add 1 2) (withRegs [(1, 0xFF), (2, 1)]) (fun t => t.status.isFaulted) = some false := by decide
theorem witness_FlagValuesAreZeroOrOne_draw :
    (Instr.draw 0 1 1).mnemonic ∈ ["Add", "Sub", "InverseSub", "Shr", "Shl", "Draw"] ∧
      did (.draw 0 1 1) (withI 0x300 []) (fun t => t.status.isFaulted) = some false := by decide
theorem witness_GotoJumps : (0xFFF : Word).toNat < 4096 ∧ 4096 ≤ (0x1000 : Word).toNat := by decide
theorem witness_CallPushesTheReturnAddress : (0xFFF : Word).toNat < 4096 ∧ 4096 ≤ (0x1000 : Word).toNat := by decide
theorem witness_ReturnPopsOrSpins : ({ base with stack := [0x300, 0x204] } : State).stack = 0x300 :: [0x204] ∧ base.stack = [] := by decide
theorem witness_ReturnComesBackAfterTheCall :
    (0x300 : Word).toNat < 4096 ∧ exec (.call 0x300) base = .next ((base.push 0x202).jump 0x300) ∧
      ({ base with pc := 0x320, stack := [0x202] } : State).stack = ((base.push 0x202).jump 0x300).stack := ⟨by decide, rfl, rfl⟩
theorem witness_OffsetGotoAddsV0 :
    (0xF00 : Word).toNat + ((withRegs [(0, 0xFF)]).getV 0).toNat = 4095 ∧ (0xF01 : Word).toNat + ((withRegs [(0, 0xFF)]).getV 0).toNat = 4096 := by decide

/-! ### index register and memory -/

theorem witness_SetIndexCharPointsAtTheGlyph :
    ((withRegs [(4, 0x0F)]).getV 4).toNat ≤ 15 ∧ 15 < ((withRegs [(4, 0x10)]).getV 4).toNat := by decide
theorem witness_BcdStoresThreeDigits :
    (withI 0xFFD []).i.toNat + 2 < 4096 ∧ (withI 0xFFD []).mem.wf = true ∧ 4096 ≤ (withI 0xFFE []).i.toNat + 2 := by decide
theorem witness_RegDumpStoresTheLowRegisters :
    (withI 0xFF0 []).i.toNat + (15 : Reg).val < 4096 ∧ (withI 0xFF0 []).mem.wf = true ∧ 4096 ≤ (withI 0xFF1 []).i.toNat + (15 : Reg).val ∧
      (withI 0xFFF []).i.toNat + (0 : Reg).val < 4096 := by decide
theorem witness_RegLoadLoadsTheLowRegisters :
    (withI 0xFF0 []).i.toNat + (15 : Reg).val < 4096 ∧ 4096 ≤ (withI 0xFF1 []).i.toNat + (15 : Reg).val := by decide
theorem witness_DumpThenLoadRestoresAllRegisters :
    let s := withI 0xFF0 [(0, 0x1F), (15, 0xFF)]
    s.mem.wf = true ∧ s.i.toNat + 15 < 4096 ∧
      ∃ t, exec (.regDump 15) s = .next t ∧ ({ t with v := regs [] } : State).i = s.i ∧
        ∀ k, k ≤ 15 → ({ t with v := regs [] } : State).mem.read (s.i.toNat + k) = t.mem.read (s.i.toNat + k) :=
  ⟨by decide, by decide, _, rfl, by decide, fun _ _ => rfl⟩

/-! ### timers and keys -/

theorem witness_KeySkipsReadTheSnapshot :
    ((withRegs [(2, 15)]).getV 2).toNat ≤ 15 ∧ 15 < ((withRegs [(2, 16)]).getV 2).toNat := by decide
theorem witness_PollCompletesOnTheLowestNewKey_waits :
    (waitingFor 0x0010).status = .waiting ∧ ∀ k, ¬ (waitingFor 0x0010).NewKey (waitingFor 0x0010).nextKeys k := by
  refine ⟨rfl, fun k h => ?_⟩
  obtain ⟨h1, h2, h3⟩ := h
  have := newKey_eq_none_iff.mp (show newKey 0x0010 0x0010 = none by decide) k h1
  exact this ⟨h2, h3⟩
theorem witness_PollCompletesOnTheLowestNewKey_completes :
    (waitingFor 0x8010).status = .waiting ∧ (waitingFor 0x8010).NewKey (waitingFor 0x8010).nextKeys 15 ∧
      ∀ j, j < 15 → ¬ (waitingFor 0x8010).NewKey (waitingFor 0x8010).nextKeys j := by
  refine ⟨rfl, ⟨by decide, by decide, by decide⟩, fun j hj h => ?_⟩
  have := (newKey_eq_some_iff.mp (show newKey 0x0010 0x8010 = some 15 by decide)).2 j hj
  exact this ⟨h.2.1, h.2.2⟩
theorem witness_WaitingFreezesTheMachine : (waitingFor 0x0010).status = .waiting := rfl
theorem witness_TickCountsBothTimersDown : (ticking 0 1).TickNext ∧ (ticking 0 1).st = 1 ∧ (ticking 255 2).TickNext := ⟨⟨rfl, rfl⟩, rfl, ⟨rfl, rfl⟩⟩
theorem witness_OnlyATickPlaysTheSound :
    after (ticking 0 1) (fun t => t.st) = some 0 ∧ run 0x6A2C { base with st := 1 } (fun t => t.st) = some 1 := by decide

/-! ### display -/

theorem witness_DrawInvertsThePixelsUnderTheSprite :
    let s := withI 0xFF1 [(0, 56), (1, 17)]
    (0 : Fin 16).val = 0 ∧ s.i.toNat + (15 : Fin 16).val ≤ 4096 ∧ (s.getV 0).toNat + 8 ≤ 64 ∧ (s.getV 1).toNat + (15 : Fin 16).val ≤ 32 := by decide
theorem witness_DrawFaultsBeforeItDraws_address :
    (15 : Fin 16).val ≠ 0 ∧ 4096 ≤ (withI 0xFF2 []).i.toNat + (15 : Fin 16).val - 1 := by decide
theorem witness_DrawFaultsBeforeItDraws_column :
    let s := withI 0x300 [(0, 57)]
    (1 : Fin 16).val ≠ 0 ∧ s.i.toNat + (1 : Fin 16).val - 1 < 4096 ∧ 56 < (s.getV 0).toNat ∧ ¬ 64 ≤ (s.getV 0).toNat ∧
      (64, 0) = ((64, (s.getV 1).toNat) : Nat × Nat) := by decide
theorem witness_DrawFaultsBeforeItDraws_row :
    let s := withI 0x300 [(0, 56), (1, 18)]
    (15 : Fin 16).val ≠ 0 ∧ s.i.toNat + (15 : Fin 16).val - 1 < 4096 ∧ 32 < (s.getV 1).toNat + (15 : Fin 16).val ∧ ¬ 56 < (s.getV 0).toNat ∧
      ¬ 32 ≤ (s.getV 1).toNat := by decide
theorem witness_DrawFaultsBeforeItDraws_origin :
    let s := withI 0x300 [(0, 64), (1, 32)]
    (1 : Fin 16).val ≠ 0 ∧ s.i.toNat + (1 : Fin 16).val - 1 < 4096 ∧ 32 ≤ (s.getV 1).toNat ∧ 64 ≤ (s.getV 0).toNat := by decide
theorem witness_DrawingTwiceRestoresTheBitmap :
    (14 : Reg) ≠ 15 ∧ (0 : Reg) ≠ 15 ∧ did (.draw 14 0 1) (poke (withI 0x300 [(14, 56)]) 0x300 [0xFF]) (fun t => t.status.isFaulted) = some false := by decide

/-! ### the cycle -/

/-- A cycle is next and SetConst stands at 0xFFE, the last address an opcode can have. -/
def atTheLastOpcode : State := poke { base with pc := 0xFFE, redraw := true } 0xFFE [0x60, 0x2C]

theorem witness_CycleWithoutAnOpcodeEndsTheRun :
    ({ base with pc := 0xFFF } : State).CycleNext ∧ 4095 ≤ ({ base with pc := 0xFFF } : State).pc.toNat := ⟨⟨rfl, rfl⟩, by decide⟩
theorem witness_IllegalOpcodeFaultsBeforeTheKeyRefresh :
    let s := poke { base with pc := 0xFFE } 0xFFE [0x51, 0x2F]
    s.CycleNext ∧ s.pc.toNat ≤ 4094 ∧ decode (s.mem.readWord s.pc.toNat) = .error (.noPattern 0x512F) :=
  ⟨⟨rfl, rfl⟩, by decide, by decide⟩
theorem witness_StepRunsTheDecodedInstruction :
    atTheLastOpcode.CycleNext ∧ atTheLastOpcode.pc.toNat ≤ 4094 ∧
      decode (atTheLastOpcode.mem.readWord atTheLastOpcode.pc.toNat) = .ok (.setConst 0 0x2C) ∧
      (Instr.setConst 0 0x2C).wellFormed = true ∧
      [atTheLastOpcode.mem.read atTheLastOpcode.pc.toNat, atTheLastOpcode.mem.read (atTheLastOpcode.pc.toNat + 1)] =
        wordBytes (encode (.setConst 0 0x2C)) :=
  ⟨⟨rfl, rfl⟩, by decide, by decide, by decide, by decide⟩
theorem witness_CycleFlushesOnceWhenRedrawIsSet :
    atTheLastOpcode.CycleNext ∧ decode (atTheLastOpcode.mem.readWord atTheLastOpcode.pc.toNat) = .ok (.setConst 0 0x2C) ∧
      after atTheLastOpcode (fun t => (t.status, t.redraw)) = some (.running, true) ∧
      run 0x602C base (fun t => (t.status, t.redraw)) = some (.running, false) :=
  ⟨⟨rfl, rfl⟩, by decide, by decide, by decide⟩
theorem witness_FaultInACycleKeepsOnlyTheKeyRefresh :
    let s := poke (withRegs [(2, 0x10)]) 0x200 [0xE2, 0x9E]
    s.CycleNext ∧ s.pc.toNat ≤ 4094 ∧ decode (s.mem.readWord s.pc.toNat) = .ok (.skipKey 2) ∧
      after s (fun t => t.status.isFaulted) = some true :=
  ⟨⟨rfl, rfl⟩, by decide, by decide, by decide⟩
theorem witness_FaultingInstructionWritesNothing :
    (withI 0xFFE []).status.isFaulted = false ∧ did (.bcd 0) (withI 0xFFE []) (fun t => t.status.isFaulted) = some true := by decide
theorem witness_OnlyTheListedInstructionsFault :
    (Instr.draw 0 1 1).wellFormed = true ∧ (withI 0x300 [(0, 57)]).status.isFaulted = false ∧
      did (.draw 0 1 1) (withI 0x300 [(0, 57)]) (fun t => t.status) = some (.faulted (.pixelOutOfBounds 64 0)) := by decide
theorem witness_EveryEnabledStepAnswers : base.status.terminal = false ∧ (waitingFor 0).status.terminal = false := by decide
theorem witness_TerminalStatusEnablesNoStep :
    ({ base with status := .ended } : State).status = .ended ∧
      ({ base with status := .faulted (.unknownCharacter 16) } : State).status = .faulted (.unknownCharacter 16) := ⟨rfl, rfl⟩
theorem witness_AccessMatrixIsRespected : did (.call 0x300) base (fun t => t.stack) = some [0x202] := by decide
theorem witness_RedrawIsNeverCleared : atTheLastOpcode.redraw = true ∧ after atTheLastOpcode (fun t => t.redraw) = some true := by decide
theorem witness_StoredCodeIsFetchedNext :
    let s := { withI 0xFFE [(0, 0x12), (1, 0x00)] with pc := 0xFFC }
    s.mem.wf = true ∧ s.i = s.pc + 2 ∧ s.pc.toNat + 3 < 4096 ∧ s.pc.toNat + 2 + (1 : Reg).val < 4096 ∧ 1 ≤ (1 : Reg).val ∧
      did (.regDump 1) s (fun t => t.pc) = some 0xFFE := by decide
theorem witness_PlacedWordRunsNext :
    ({ State.reset with pc := 0xFFF } : State).mem.wf = true ∧ decode 0x1ABC = .ok (.goto 0xABC) := by decide

/-! ### state -/

theorem witness_StepKeepsTheInvariant_cycle : base.Inv ∧ run 0x2300 base (fun t => (t.stack, t.pc)) = some ([0x202], 0x300) :=
  ⟨⟨rfl, fun _ hw => (nomatch hw), show 0x200 ≤ 4098 by decide, fun _ => rfl⟩, by decide⟩
theorem witness_StepKeepsTheInvariant_tick : (ticking 1 1).Inv ∧ after (ticking 1 1) (fun t => t.st) = some 0 :=
  ⟨⟨rfl, fun _ hw => (nomatch hw), show 0x200 ≤ 4098 by decide, fun _ => rfl⟩, by decide⟩
theorem witness_StepKeepsTheInvariant_poll : (waitingFor 0x0090).Inv ∧ after (waitingFor 0x0090) (fun t => t.pc) = some 0x202 :=
  ⟨⟨rfl, fun _ hw => (nomatch hw), show 0x200 ≤ 4094 by decide, fun _ => rfl⟩, by decide⟩
theorem witness_FontIsPreloaded : (15 < 16 ∧ 4 < 5) ∧ fontBase + 80 ≤ 0x200 ∧ fontBase < fontBase + 80 :=
  ⟨by decide, fontBase_le, by omega⟩
theorem witness_ConstructionLoadsOrRefusesTheProgram :
    (List.replicate 3583 (0 : Byte)).length < 3584 ∧ 3584 ≤ (List.replicate 3584 (0 : Byte)).length := by
  rw [List.length_replicate, List.length_replicate]
  decide
theorem witness_ReadReturnsTheLatestWrite : State.reset.mem.wf = true ∧ 4095 < 4096 := by decide
theorem witness_CanonicalMemoriesAreTheirReads :
    Memory.wf ((Memory.write [] 0x300 5).write 0x300 0) = true ∧ Memory.wf [] = true ∧
      ∀ a, ((Memory.write [] 0x300 5).write 0x300 0).read a = Memory.read [] a := by
  have h : (Memory.write [] 0x300 5).write 0x300 0 = [] := by decide
  rw [h]
  exact ⟨rfl, rfl, fun _ => rfl⟩

end Sys2Proof.Tests
end

section
/-! SUPPORT. What an instruction can do, said once: the relation `Effect`, by the fields written (R38), that `exec` keeps to. -/

namespace Sys2Proof.Machine

/-! ### what a Draw that passes leaves alone -/

@[simp] theorem State.drawSprite_i (s : State) (x0 y0 h : Nat) : (s.drawSprite x0 y0 h).i = s.i := rfl
@[simp] theorem State.drawSprite_pc (s : State) (x0 y0 h : Nat) : (s.drawSprite x0 y0 h).pc = s.pc := rfl
@[simp] theorem State.drawSprite_stack (s : State) (x0 y0 h : Nat) : (s.drawSprite x0 y0 h).stack = s.stack := rfl
@[simp] theorem State.drawSprite_dt (s : State) (x0 y0 h : Nat) : (s.drawSprite x0 y0 h).dt = s.dt := rfl
@[simp] theorem State.drawSprite_st (s : State) (x0 y0 h : Nat) : (s.drawSprite x0 y0 h).st = s.st := rfl
@[simp] theorem State.drawSprite_mem (s : State) (x0 y0 h : Nat) : (s.drawSprite x0 y0 h).mem = s.mem := rfl
@[simp] theorem State.drawSprite_status (s : State) (x0 y0 h : Nat) : (s.drawSprite x0 y0 h).status = s.status := rfl
@[simp] theorem State.drawSprite_keys (s : State) (x0 y0 h : Nat) : (s.drawSprite x0 y0 h).keys = s.keys := rfl
@[simp] theorem State.drawSprite_waitX (s : State) (x0 y0 h : Nat) : (s.drawSprite x0 y0 h).waitX = s.waitX := rfl
@[simp] theorem State.drawSprite_waitRef (s : State) (x0 y0 h : Nat) : (s.drawSprite x0 y0 h).waitRef = s.waitRef := rfl
@[simp] theorem State.drawSprite_env (s : State) (x0 y0 h : Nat) : (s.drawSprite x0 y0 h).env = s.env := rfl

/-! ### the effects -/

/-- The mnemonics of the instructions that write no general register (R38, R174). -/
def noRegisterNames : List String :=
  ["ClearScreen", "Return", "Goto", "Call", "SkipEqConst", "SkipNeqConst", "SkipEq", "SkipNeq", "SetIndex", "OffsetGoto",
    "SkipKey", "SkipNotKey", "WaitKey", "SetDelay", "SetSound", "AddIndex", "SetIndexChar", "BCD", "RegDump"]

/-- `Effect s i t`: the instruction `i` can take `s` to `t`, told apart by what it writes beside `PC` (R38). What is left open
is the value of a register, of `I`, of a stored byte, and which instruction a fault or a jump belongs to. -/
inductive Effect (s : State) : Instr → State → Prop
  | fault (i : Instr) (k : FaultKind) : Effect s i (s.raise k)
  | jump (i : Instr) (w : Word) (hw : w.toNat < 4096 ∨ w = s.pc + 2 ∨ w = s.pc + 4) : Effect s i (s.jump w)
  | ret : Effect s .ret s.popToPc
  | call (a : Word) (ha : a.toNat < 4096) : Effect s (.call a) ((s.push (s.pc + 2)).jump a)
  | registers (i : Instr) (v : Vector Byte 16) (hi : i.mnemonic ∉ noRegisterNames) : Effect s i { s with v := v }.advance
  | rand (x : Reg) (n : Byte) : Effect s (.rand x n) (s.consumeByte.setV x (s.nextByte &&& n)).advance
  | index (i : Instr) (w : Word) (hi : i.mnemonic ∈ ["SetIndex", "AddIndex", "SetIndexChar"]) : Effect s i (s.setI w).advance
  | delay (x : Reg) : Effect s (.setDelay x) { s with dt := s.getV x }.advance
  | sound (x : Reg) : Effect s (.setSound x) { s with st := s.getV x }.advance
  | store (i : Instr) (a : Nat) (bs : List Byte) (hi : i.mnemonic ∈ ["BCD", "RegDump"]) (ha : a + bs.length ≤ 4096) :
      Effect s i { s with mem := s.mem.storeBytes a bs }.advance
  | clear : Effect s .clearScreen { s with fb := Frame.clear, redraw := true }.advance
  | draw (x y : Reg) (h : Fin 16) :
      Effect s (.draw x y h) (s.drawSprite (s.getV x).toNat (s.getV y).toNat h.val).advance
  | wait (x : Reg) : Effect s (.waitKey x) { s with waitX := x, waitRef := s.keys, status := .waiting }

/-- A bounds check either faults or lets the checked effect happen, at an address below 4096 (R57, R207). -/
theorem Effect.checkTop {s ok : State} {i : Instr} {top : Nat} (name : String) (h : top < 4096 → Effect s i ok) :
    Effect s i (s.checkTop top name ok) := by
  obtain ⟨hlt, e⟩ | ⟨-, e⟩ := State.checkTop_cases s ok top name
  · rw [e]; exact h hlt
  · rw [e]; exact .fault i _

/-- A conditional skip is a jump by 2 or 4 (R99). -/
theorem Effect.skipIf (s : State) (i : Instr) (c : Bool) : Effect s i (s.skipIf c) := by
  cases c
  · exact .jump i _ (.inr (.inl rfl))
  · exact .jump i _ (.inr (.inr rfl))

/-- A test of `VX > 15` either faults or lets the tested effect happen (R153, R176, R177). -/
theorem Effect.ite_fault {s ok : State} {i : Instr} (c : Bool) (k : FaultKind) (h : Effect s i ok) :
    Effect s i (if c then ok else s.raise k) := by
  cases c
  · exact .fault i k
  · exact h

/-- A result and its flag are written to registers alone (R101). -/
theorem Effect.resultAndFlag (s : State) (i : Instr) (x : Reg) (result flag : Byte)
    (hi : i.mnemonic ∉ noRegisterNames := by simp [Instr.mnemonic, noRegisterNames]) :
    Effect s i (s.setResultAndFlag x result flag).advance := .registers i _ hi

/-- A single register written (R38). -/
theorem Effect.setV (s : State) (i : Instr) (x : Reg) (b : Byte)
    (hi : i.mnemonic ∉ noRegisterNames := by simp [Instr.mnemonic, noRegisterNames]) :
    Effect s i (s.setV x b).advance := .registers i _ hi

/-- Draw has its effect or faults (R193, R194). -/
theorem Effect.of_exec_draw {s t : State} {x y : Reg} {h : Fin 16} (he : exec (.draw x y h) s = .next t) :
    Effect s (.draw x y h) t := by
  obtain e | ⟨a, -, e⟩ | ⟨p, -, e⟩ := exec_draw_cases x y h s
  · obtain rfl := Host.Outcome.next.inj (e.symm.trans he)
    exact .draw x y h
  · obtain rfl := Host.Outcome.next.inj (e.symm.trans he)
    exact .fault _ _
  · obtain rfl := Host.Outcome.next.inj (e.symm.trans he)
    exact .fault _ _

/-- All an instruction can do (R38, R97). -/
theorem exec_effect {i : Instr} {s t : State} (h : exec i s = .next t) : Effect s i t := by
  cases i
  case draw x y n => exact .of_exec_draw h
  all_goals obtain rfl := Host.Outcome.next.inj h
  case clearScreen => exact .clear
  case ret => exact .ret
  case goto a => exact .checkTop _ fun ha => .jump _ _ (.inl ha)
  case call a => exact .checkTop _ fun ha => .call a ha
  case skipEqConst | skipNeqConst | skipEq | skipNeq => exact .skipIf _ _ _
  case setConst | addConst | set | or | and | xor | getDelay => exact .setV _ _ _ _
  case add | sub | shr | inverseSub | shl => exact .resultAndFlag _ _ _ _ _
  case offsetGoto a =>
    refine .checkTop _ fun ha => .jump _ _ (.inl ?_)
    rwa [BitVec.toNat_ofNat, Nat.mod_eq_of_lt (by omega)]
  case rand x n => exact .rand x n
  case skipKey | skipNotKey => exact .ite_fault _ _ (.skipIf _ _ _)
  case waitKey x => exact .wait x
  case setDelay x => exact .delay x
  case setSound x => exact .sound x
  case setIndex | addIndex => exact .index _ _ (by simp [Instr.mnemonic])
  case setIndexChar x => exact .ite_fault _ _ (.index _ _ (by simp [Instr.mnemonic]))
  case bcd x => exact .checkTop _ fun ha => .store _ _ _ (by simp [Instr.mnemonic]) ha
  case regDump x =>
    refine .checkTop _ fun ha => .store _ _ _ (by simp [Instr.mnemonic]) ?_
    rw [State.lowRegs_length]
    exact ha
  case regLoad x => exact .checkTop _ fun _ => .registers _ _ (by simp [Instr.mnemonic, noRegisterNames])

/-! ### one field at a time: who writes it (R38) -/

section
variable {s t : State} {i : Instr} (h : Effect s i t)
include h

theorem Effect.stack_eq (hi : i.mnemonic ∉ ["Call", "Return"]) : t.stack = s.stack := by
  cases h with
  | ret => exact absurd (by decide) hi
  | call a => exact absurd (by simp [Instr.mnemonic]) hi
  | _ => simp

theorem Effect.i_eq (hi : i.mnemonic ∉ ["SetIndex", "AddIndex", "SetIndexChar"]) : t.i = s.i := by
  cases h with
  | index _ w hw => exact absurd hw hi
  | _ => simp

theorem Effect.dt_eq (hi : i.mnemonic ≠ "SetDelay") : t.dt = s.dt := by
  cases h with
  | delay x => exact absurd rfl hi
  | _ => simp

theorem Effect.st_eq (hi : i.mnemonic ≠ "SetSound") : t.st = s.st := by
  cases h with
  | sound x => exact absurd rfl hi
  | _ => simp

theorem Effect.mem_eq (hi : i.mnemonic ∉ ["BCD", "RegDump"]) : t.mem = s.mem := by
  cases h with
  | store _ a bs hs => exact absurd hs hi
  | _ => simp

theorem Effect.screen_eq (hi : i.mnemonic ∉ ["ClearScreen", "Draw"]) : t.fb = s.fb ∧ t.redraw = s.redraw := by
  cases h with
  | clear => exact absurd (by decide) hi
  | draw x y n => exact absurd (by simp [Instr.mnemonic]) hi
  | _ => simp

theorem Effect.v_eq (hi : i.mnemonic ∈ noRegisterNames) : t.v = s.v := by
  cases h with
  | registers _ v hv => exact absurd hi hv
  | rand x n => exact absurd hi (by simp [Instr.mnemonic, noRegisterNames])
  | draw x y n => exact absurd hi (by simp [Instr.mnemonic, noRegisterNames])
  | _ => simp

theorem Effect.latch_eq (hi : i.mnemonic ≠ "WaitKey") : t.waitX = s.waitX ∧ t.waitRef = s.waitRef := by
  cases h with
  | wait x => exact absurd rfl hi
  | _ => simp

theorem Effect.env_eq (hi : i.mnemonic ≠ "Rand") : t.env = s.env := by
  cases h with
  | rand x n => exact absurd rfl hi
  | _ => simp

theorem Effect.keys_eq : t.keys = s.keys := by
  cases h <;> simp

/-- Draw adds to the redraw flag and ClearScreen sets it; nobody clears it (R31). -/
theorem Effect.redraw_mono (hr : s.redraw = true) : t.redraw = true := by
  cases h with
  | clear => rfl
  | draw x y n => simp [State.drawSprite_redraw, hr]
  | _ => simpa using hr

end

/-- Settles O48: each clause is the effect's lemma for that field. -/
theorem accessMatrixIsRespected : Obligations.AccessMatrixIsRespected := by
  intro i s t h
  have e := exec_effect h
  exact ⟨e.stack_eq, e.i_eq, e.dt_eq, e.st_eq, fun hi a => by rw [e.mem_eq hi], e.screen_eq, e.v_eq, e.latch_eq, e.env_eq,
    e.keys_eq⟩

end Sys2Proof.Machine
end

section
/-! SUPPORT. The invariant of the machine (R24, R31, R51, R112): each effect of an instruction keeps it, and so does every step. -/

namespace Sys2Proof.Machine

/-! ### the range of PC, by status -/

theorem State.pcOk_of_running {s : State} (hs : s.status = .running) (hp : s.pc.toNat ≤ 4098) : s.PcOk := by
  simpa only [State.PcOk, hs] using hp

theorem State.pcOk_of_waiting {s : State} (hs : s.status = .waiting) (hp : s.pc.toNat ≤ 4094) : s.PcOk := by
  simpa only [State.PcOk, hs] using hp

theorem State.pcOk_of_ended {s : State} (hs : s.status = .ended) (hp : 4095 ≤ s.pc.toNat ∧ s.pc.toNat ≤ 4098) : s.PcOk := by
  simpa only [State.PcOk, hs] using hp

theorem State.pcOk_of_faulted {s : State} {k : FaultKind} (hs : s.status = .faulted k) (hp : s.pc.toNat ≤ 4094) : s.PcOk := by
  simpa only [State.PcOk, hs] using hp

theorem State.PcOk.le_of_running {s : State} (h : s.PcOk) (hs : s.status = .running) : s.pc.toNat ≤ 4098 := by
  simpa only [State.PcOk, hs] using h

theorem State.PcOk.le_of_waiting {s : State} (h : s.PcOk) (hs : s.status = .waiting) : s.pc.toNat ≤ 4094 := by
  simpa only [State.PcOk, hs] using h

/-- The range of PC depends on the status and PC alone. -/
theorem State.PcOk.congr {s t : State} (h : s.PcOk) (hst : t.status = s.status := by simp) (hpc : t.pc = s.pc := by simp) :
    t.PcOk := by
  simpa only [State.PcOk, hst, hpc] using h

/-- From an instruction that was fetched, `PC + 2` is at most 4096: no wrap (R24, R98). -/
theorem toNat_add_two_le {pc : Word} (h : pc.toNat ≤ 4094) : (pc + 2).toNat ≤ 4096 := by bv_omega

/-- As `toNat_add_two_le`, for the skip (R24, R99). -/
theorem toNat_add_four_le {pc : Word} (h : pc.toNat ≤ 4094) : (pc + 4).toNat ≤ 4098 := by bv_omega

/-- A running state that advances past an instruction that was fetched. -/
theorem State.pcOk_advance {s : State} (hs : s.status = .running) (hp : s.pc.toNat ≤ 4094) : s.advance.PcOk :=
  State.pcOk_of_running hs ((toNat_add_two_le hp).trans (by decide))

/-! ### the invariant under a change of other fields -/

/-- With PC in range, the invariant depends on memory, the stack, the bitmap and the redraw flag alone. -/
theorem State.Inv.congr {s t : State} (h : s.Inv) (hpc : t.PcOk) (hm : t.mem = s.mem := by simp)
    (hst : t.stack = s.stack := by simp) (hfb : t.fb = s.fb := by simp) (hr : t.redraw = s.redraw := by simp) : t.Inv where
  mem := hm ▸ h.mem
  stack := by simpa only [State.StackOk, hst] using h.stack
  pc := hpc
  bitmap := by simpa only [State.BitmapOk, hfb, hr] using h.bitmap

/-- The owner's choice keeps the invariant (R91). -/
theorem State.Inv.consumeAgent {s : State} (h : s.Inv) : s.consumeAgent.Inv := h.congr h.pc.congr

/-- The `get_keys` call of a poll keeps the invariant (R175). -/
theorem State.Inv.consumeKeys {s : State} (h : s.Inv) : s.consumeKeys.Inv := h.congr h.pc.congr

/-- The key refresh keeps the invariant (R96). -/
theorem State.Inv.refreshKeys {s : State} (h : s.Inv) : s.refreshKeys.Inv := h.congr h.pc.congr

/-- The flush keeps the invariant (R102). -/
theorem State.Inv.flush {s : State} (h : s.Inv) : s.flush.Inv := h.congr h.pc.congr

/-- Step 6 keeps the invariant (R102 to R104). -/
theorem State.Inv.endOfCycle {s : State} (h : s.Inv) : s.endOfCycle.Inv := h.congr h.pc.congr

/-- A tick keeps the invariant (R211). -/
theorem State.Inv.tick {s : State} (h : s.Inv) : s.tick.Inv := h.congr h.pc.congr

/-- A fault taken at a fetched instruction keeps the invariant (R206, R207). -/
theorem State.Inv.raise {s : State} (h : s.Inv) (hp : s.pc.toNat ≤ 4094) (k : FaultKind) : (s.raise k).Inv :=
  h.congr (State.pcOk_of_faulted rfl hp)

/-! ### the invariant under the effects that write its fields -/

/-- A Return loads a return address, at most 4096 (R112). -/
theorem State.Inv.popToPc {s : State} (h : s.Inv) (hs : s.status = .running) : s.popToPc.Inv := by
  unfold State.popToPc
  split
  · exact h
  · next w rest hst =>
    have hall : ∀ u ∈ w :: rest, u.toNat ≤ 4096 := hst ▸ h.stack
    have hw : w.toNat ≤ 4096 := hall w List.mem_cons_self
    exact ⟨h.mem, fun u hu => hall u (List.mem_cons_of_mem w hu), State.pcOk_of_running hs (hw.trans (by decide)), h.bitmap⟩

/-- A Call pushes `PC + 2`, at most 4096 (R114). -/
theorem State.Inv.call {s : State} (h : s.Inv) (hs : s.status = .running) (hp : s.pc.toNat ≤ 4094) {a : Word}
    (ha : a.toNat < 4096) : ((s.push (s.pc + 2)).jump a).Inv where
  mem := h.mem
  stack := List.forall_mem_cons.mpr ⟨toNat_add_two_le hp, h.stack⟩
  pc := State.pcOk_of_running hs (by rw [State.jump_pc]; omega)
  bitmap := h.bitmap

/-- While a Draw has changed no pixel the bitmap is as it was (R31, R193). -/
theorem State.drawSprite_bitmapOk {s : State} (h : s.BitmapOk) (x0 y0 n : Nat) : (s.drawSprite x0 y0 n).BitmapOk := by
  intro hr
  rw [State.drawSprite_redraw, Bool.or_eq_false_iff] at hr
  obtain ⟨hs, hc⟩ := hr
  rw [State.drawSprite_fb, State.blit, blitRows_unchanged hc]
  exact h hs

/-- Every effect of a fetched instruction keeps the invariant. -/
theorem Effect.inv {s t : State} {i : Instr} (e : Effect s i t) (h : s.Inv) (hs : s.status = .running)
    (hp : s.pc.toNat ≤ 4094) : t.Inv := by
  cases e with
  | fault _ k => exact h.raise hp k
  | jump _ w hw =>
    refine h.congr (State.pcOk_of_running hs ?_)
    rw [State.jump_pc]
    obtain hw | rfl | rfl := hw
    · omega
    · exact (toNat_add_two_le hp).trans (by decide)
    · exact toNat_add_four_le hp
  | ret => exact h.popToPc hs
  | call a ha => exact h.call hs hp ha
  | store _ a bs _ ha =>
    exact ⟨Memory.wf_storeBytes h.mem ha, h.stack, State.pcOk_advance (s := { s with mem := _ }) hs hp, h.bitmap⟩
  | clear => exact ⟨h.mem, h.stack, State.pcOk_advance (s := { s with fb := _, redraw := _ }) hs hp, fun _ => rfl⟩
  | draw x y n => exact ⟨h.mem, h.stack, State.pcOk_advance hs hp, State.drawSprite_bitmapOk h.bitmap _ _ _⟩
  | wait x => exact h.congr (State.pcOk_of_waiting rfl hp)
  | _ => exact h.congr (State.pcOk_advance (by simpa using hs) (by simpa using hp))

/-- A cycle keeps the invariant (R92). -/
theorem State.Inv.cycle {s t : State} (h : s.Inv) (hs : s.status = .running) (hc : s.cycle = .next t) : t.Inv := by
  obtain ⟨hp, rfl⟩ | ⟨hp, -, rfl⟩ | ⟨hp, i, u, -, he, rfl⟩ := State.cycle_cases hc
  · exact h.congr (State.pcOk_of_ended rfl ⟨Nat.lt_of_not_le hp, h.pc.le_of_running hs⟩)
  · exact h.raise hp _
  · exact ((exec_effect he).inv h.refreshKeys (by simpa using hs) (by simpa using hp)).endOfCycle

/-- A poll keeps the invariant (R175). -/
theorem State.Inv.poll {s : State} (h : s.Inv) (hs : s.status = .waiting) : s.poll.Inv := by
  obtain ⟨-, e⟩ | ⟨k, -, e⟩ := s.poll_cases
  · rw [e]; exact h.consumeKeys
  · rw [e]
    have hp := h.pc.le_of_waiting hs
    refine (h.congr (State.pcOk_of_running rfl ?_)).flush
    have hle := toNat_add_two_le hp
    change (s.consumeKeys.pc + 2).toNat ≤ 4098
    rw [State.consumeKeys_pc]
    omega

/-- Settles O52, by the three kinds of step: a tick, a cycle and a poll each keep the invariant. -/
theorem stepKeepsTheInvariant : Obligations.StepKeepsTheInvariant := by
  intro s t h hstep
  obtain ⟨-, rfl⟩ | ⟨⟨hs, -⟩, hc⟩ | ⟨hs, rfl⟩ := step_cases hstep
  · exact h.consumeAgent.tick
  · exact h.consumeAgent.cycle (by simpa using hs) hc
  · exact h.poll hs

/-- The state after reset meets the invariant (R37). -/
theorem State.reset_inv : State.reset.Inv where
  mem := rfl
  stack := fun _ hw => absurd hw List.not_mem_nil
  pc := State.pcOk_of_running rfl (by decide)
  bitmap := fun _ => rfl

/-- Construction keeps the invariant, whether the program fits or not (R231, R232). -/
theorem construct_inv (p : List Byte) : (construct p).Inv := by
  have h := State.reset_inv
  unfold construct
  split
  · next hlt =>
    have hfit : Config.programBase + p.length ≤ Config.memSize := by
      simp only [Config.programLimit, Config.programBase, Config.memSize] at hlt ⊢
      omega
    exact ⟨Memory.wf_storeBytes h.mem hfit, h.stack, h.pc, h.bitmap⟩
  · exact h.raise (by decide) _

/-- Settles O53, from the reset state and the bounds of a program that fits. -/
theorem resetMeetsTheInvariant : Obligations.ResetMeetsTheInvariant := ⟨State.reset_inv, construct_inv⟩

/-! ### the redraw flag -/

/-- Settles O49: of all a step can do, only an instruction writes the flag, and it does not clear it. -/
theorem redrawIsNeverCleared : Obligations.RedrawIsNeverCleared := by
  intro s t hstep hr
  obtain ⟨-, rfl⟩ | ⟨-, hc⟩ | ⟨-, rfl⟩ := step_cases hstep
  · simpa using hr
  · obtain ⟨-, rfl⟩ | ⟨-, -, rfl⟩ | ⟨-, i, u, -, he, rfl⟩ := State.cycle_cases hc
    · simpa using hr
    · simpa using hr
    · rw [State.endOfCycle_redraw]
      exact (exec_effect he).redraw_mono (by simpa using hr)
  · obtain ⟨-, e⟩ | ⟨k, -, e⟩ := s.poll_cases
    · simpa [e] using hr
    · simpa [e] using hr

/-- Settles O47: the two terminal statuses of the step (R29, R91). -/
theorem terminalStatusEnablesNoStep : Obligations.TerminalStatusEnablesNoStep := by
  refine fun s => ⟨fun h => ?_, fun k h => ?_⟩
  · simp only [step, State.oneStep, h]
  · simp only [step, State.oneStep, h]

end Sys2Proof.Machine
end

section
/-! SUPPORT. The values of single fields: the flag in VF (R22), the order of the pixels (R30), and what reset leaves (R36, R37). -/

namespace Sys2Proof.Machine

/-! ### the flag -/

/-- A flag is 0 or 1 (R22). -/
theorem flagByte_zero_or_one (c : Bool) : flagByte c = 0 ∨ flagByte c = 1 := by
  cases c
  · exact .inl rfl
  · exact .inr rfl

/-- After a result and its flag are written, VF holds the flag, also where the result went to VF (R101). -/
theorem State.vf_setResultAndFlag (s : State) (x : Reg) (r : Byte) (c : Bool) :
    (s.setResultAndFlag x r (flagByte c)).advance.getV 15 = 0 ∨ (s.setResultAndFlag x r (flagByte c)).advance.getV 15 = 1 := by
  have h : (s.setResultAndFlag x r (flagByte c)).advance.getV 15 = flagByte c := by simp [vf]
  rw [h]
  exact flagByte_zero_or_one c

/-- After a Draw that does not fault VF is the collision flag (R193). -/
theorem vf_of_exec_draw {s t : State} {x y : Reg} {n : Fin 16} (h : exec (.draw x y n) s = .next t)
    (ht : t.status.isFaulted = false) : t.getV 15 = 0 ∨ t.getV 15 = 1 := by
  obtain e | ⟨a, -, e⟩ | ⟨p, -, e⟩ := exec_draw_cases x y n s
  · obtain rfl := Host.Outcome.next.inj (e.symm.trans h)
    rw [State.getV_advance, State.drawSprite_vf]
    exact flagByte_zero_or_one _
  · obtain rfl := Host.Outcome.next.inj (e.symm.trans h)
    exact absurd ht (by simp [Status.isFaulted])
  · obtain rfl := Host.Outcome.next.inj (e.symm.trans h)
    exact absurd ht (by simp [Status.isFaulted])

/-- Settles O14: five instructions write a result and a flag, and Draw its collision flag. -/
theorem flagValuesAreZeroOrOne : Obligations.FlagValuesAreZeroOrOne := by
  intro i s t hi h ht
  cases i
  case draw x y n => exact vf_of_exec_draw h ht
  case add | sub | inverseSub | shr | shl =>
    obtain rfl := Host.Outcome.next.inj h
    exact s.vf_setResultAndFlag _ _ _
  all_goals exact absurd hi (by simp [Instr.mnemonic])

/-! ### the order of the pixels -/

section
variable {α : Type} (f : Nat → Nat → α) (w : Nat)

/-- `h` rows of `w` elements each are `h * w` elements. -/
theorem length_rows (h : Nat) : ((List.range h).flatMap fun y => (List.range w).map (f y)).length = h * w := by
  simp [List.length_flatMap]

/-- In a sequence of rows of `w` elements, element `x` of row `y` is at index `y * w + x`. -/
theorem getElem?_rows {h x y : Nat} (hx : x < w) (hy : y < h) :
    ((List.range h).flatMap fun y => (List.range w).map (f y))[y * w + x]? = some (f y x) := by
  induction h with
  | zero => omega
  | succ h ih =>
    rw [List.range_succ, List.flatMap_append]
    by_cases hlast : y = h
    · subst hlast
      rw [List.getElem?_append_right (by rw [length_rows]; omega), length_rows, Nat.add_sub_cancel_left]
      simp [hx]
    · have hlt : y < h := by omega
      have hidx : y * w + x < h * w := by
        calc y * w + x < (y + 1) * w := by rw [Nat.succ_mul]; omega
          _ ≤ h * w := Nat.mul_le_mul_right w hlt
      rw [List.getElem?_append_left (by rw [length_rows]; exact hidx)]
      exact ih hlt

end

/-- Settles O38: the bitmap is 32 rows of 64 pixels. -/
theorem bitmapIsRowMajor : Obligations.BitmapIsRowMajor :=
  fun fb => ⟨length_rows (fun y x => fb.px x y) _ _, fun _ _ hx hy => getElem?_rows (fun y x => fb.px x y) _ hx hy⟩

/-! ### reset -/

/-- Outside the font unwritten memory reads as 0 (R53, D11). -/
theorem resetByte_outside_font {a : Nat} (h : a < fontBase ∨ fontBase + Config.fontSize ≤ a) : resetByte a = 0 := by
  unfold resetByte
  split
  · rfl
  · rw [if_neg (by omega)]

/-- The font table is its glyphs, five bytes each (R36). -/
theorem fontByte_glyph : ∀ c < 16, ∀ r < 5, fontByte (5 * c + r) = ((Config.fontGlyphs[c]?).getD [])[r]?.getD 0 := by decide

/-- Settles O55: after reset nothing is written, so memory reads as the reset contents. -/
theorem fontIsPreloaded : Obligations.FontIsPreloaded := by
  refine ⟨fun c r hc hr => ?_, fun a ha => resetByte_outside_font ha, fontBase_le⟩
  have hj : 5 * c + r < Config.fontSize := by
    simp only [Config.fontSize]
    omega
  calc State.reset.mem.read (fontBase + 5 * c + r) = resetByte (fontBase + (5 * c + r)) := by rw [Nat.add_assoc]; rfl
    _ = fontByte (5 * c + r) := resetByte_font hj
    _ = _ := fontByte_glyph c hc r hr

/-- After reset every register is 0 (R37, D9). -/
theorem State.reset_getV (k : Reg) : State.reset.getV k = 0 := by
  simp [State.getV, State.reset, Vector.get_eq_getElem]

/-- Settles O54, field by field. -/
theorem resetFields : Obligations.ResetFields :=
  ⟨State.reset_getV, rfl, rfl, rfl, rfl, rfl, rfl, Frame.px_clear, rfl, rfl⟩

end Sys2Proof.Machine
end

section
/-! SUPPORT. Memory as its reads (R51, R60): a canonical memory is determined by what its addresses read as, and a RegDump (R157) reads
back, by the next fetch too (R63). -/

namespace Sys2Proof.Machine

/-! ### read after write -/

/-- Settles O57, from the two laws of read after write and the law that a write keeps the canonical form. -/
theorem readReturnsTheLatestWrite : Obligations.ReadReturnsTheLatestWrite := by
  refine fun m a w hm ha => ⟨fun b => ?_, Memory.wf_write hm ha w⟩
  split
  · next h => rw [h]; exact Memory.read_write_same hm a w
  · next h => exact Memory.read_write_ne h w m

/-! ### a canonical memory is its reads -/

/-- Canonical form, one entry at a time. -/
theorem Memory.wfFrom_cons {lo a : Nat} {w : Byte} {rest : Memory} :
    Memory.wfFrom lo ((a, w) :: rest) = true ↔
      lo ≤ a ∧ a < Config.memSize ∧ w ≠ resetByte a ∧ rest.wfFrom (a + 1) = true := by
  simp only [Memory.wfFrom, Bool.and_eq_true, decide_eq_true_eq, and_assoc]

/-- The first address of a memory reads as its entry. -/
@[simp] theorem Memory.read_cons_same (a : Nat) (w : Byte) (rest : Memory) : Memory.read ((a, w) :: rest) a = w :=
  if_pos rfl

/-- Every other address reads as in the rest. -/
theorem Memory.read_cons_ne {a b : Nat} (h : b ≠ a) (w : Byte) (rest : Memory) :
    Memory.read ((a, w) :: rest) b = Memory.read rest b := if_neg h

/-- If two canonical memories read alike, neither starts below the other: its first entry would be read there against the reset
contents of the other. -/
theorem Memory.head_le_of_read_eq {lo a b : Nat} {u w : Byte} {rest rest' : Memory}
    (hm : Memory.wfFrom lo ((a, u) :: rest) = true) (hm' : Memory.wfFrom lo ((b, w) :: rest') = true)
    (h : ∀ x, Memory.read ((a, u) :: rest) x = Memory.read ((b, w) :: rest') x) : b ≤ a := by
  obtain ⟨-, -, hu, -⟩ := Memory.wfFrom_cons.mp hm
  obtain ⟨-, hb⟩ := Memory.wfFrom_cons.mp hm'
  by_contra hlt
  refine hu ?_
  calc u = Memory.read ((b, w) :: rest') a := (Memory.read_cons_same a u rest).symm.trans (h a)
    _ = resetByte a := Memory.read_of_lt (Nat.lt_of_not_le hlt) (Memory.wfFrom_cons.mpr ⟨Nat.le_refl b, hb⟩)

/-- A canonical memory that reads as the reset contents everywhere has no entry. -/
theorem Memory.eq_nil_of_read_eq {lo : Nat} {m : Memory} (hm : m.wfFrom lo = true) (h : ∀ a, m.read a = resetByte a) :
    m = [] := by
  cases m with
  | nil => rfl
  | cons c rest =>
    obtain ⟨a, u⟩ := c
    obtain ⟨-, -, hu, -⟩ := Memory.wfFrom_cons.mp hm
    exact absurd ((Memory.read_cons_same a u rest).symm.trans (h a)) hu

/-- Memories canonical from one bound that read alike are equal: their first addresses agree, and so do the bytes and the rests. -/
theorem Memory.eq_of_read_eq {lo : Nat} {m m' : Memory} (hm : m.wfFrom lo = true) (hm' : m'.wfFrom lo = true)
    (h : ∀ a, m.read a = m'.read a) : m = m' := by
  induction m generalizing lo m' with
  | nil => exact (Memory.eq_nil_of_read_eq hm' fun a => (h a).symm).symm
  | cons c rest ih =>
    cases m' with
    | nil => exact Memory.eq_nil_of_read_eq hm h
    | cons c' rest' =>
      obtain ⟨a, u⟩ := c
      obtain ⟨b, w⟩ := c'
      obtain rfl : a = b :=
        Nat.le_antisymm (Memory.head_le_of_read_eq hm' hm fun x => (h x).symm) (Memory.head_le_of_read_eq hm hm' h)
      obtain rfl : u = w := by simpa using h a
      obtain ⟨-, -, -, hrest⟩ := Memory.wfFrom_cons.mp hm
      obtain ⟨-, -, -, hrest'⟩ := Memory.wfFrom_cons.mp hm'
      rw [ih hrest hrest' fun x => ?_]
      by_cases hx : x = a
      · rw [hx, Memory.read_of_lt (Nat.lt_succ_self a) hrest, Memory.read_of_lt (Nat.lt_succ_self a) hrest']
      · rw [← Memory.read_cons_ne hx u rest, h x, Memory.read_cons_ne hx u rest']

/-- Settles O58: memories in canonical form are canonical from address 0. -/
theorem canonicalMemoriesAreTheirReads : Obligations.CanonicalMemoriesAreTheirReads :=
  fun _ _ hm hm' h => Memory.eq_of_read_eq hm hm' h

/-! ### what a RegDump stores -/

/-- Inside memory a RegDump stores the low registers at `I` and advances (R157). -/
theorem exec_regDump_of_lt {x : Reg} {s : State} (h : s.i.toNat + x.val < Config.memSize) :
    exec (.regDump x) s = .next { s with mem := s.mem.storeBytes s.i.toNat (s.lowRegs x) }.advance :=
  congrArg Host.Outcome.next (State.checkTop_of_lt h)

/-- The registers stored at `a` read back in order (R60, R157). -/
theorem State.read_storeBytes_lowRegs {s : State} {x k : Reg} {a : Nat} (hm : s.mem.wf = true) (hk : k.val ≤ x.val)
    (ha : a + x.val < Config.memSize) : (s.mem.storeBytes a (s.lowRegs x)).read (a + k.val) = s.getV k := by
  have hlen := s.lowRegs_length x
  have hlt : k.val < (s.lowRegs x).length := by omega
  rw [Memory.read_storeBytes_inside hm hlt (by omega), s.lowRegs_getElem x k hlt]

/-- Settles O50: the next fetch is at `I`, where the dump has left V0 and V1. -/
theorem storedCodeIsFetchedNext : Obligations.StoredCodeIsFetchedNext := by
  intro x s t hm hi hpc hfit hx he
  have hnext : s.i.toNat = s.pc.toNat + 2 := by bv_omega
  have hin : s.i.toNat + x.val < Config.memSize := by rwa [hnext]
  obtain rfl := Host.Outcome.next.inj ((exec_regDump_of_lt hin).symm.trans he)
  have h0 := State.read_storeBytes_lowRegs (k := 0) hm (Nat.zero_le _) hin
  have h1 := State.read_storeBytes_lowRegs (k := 1) hm hx hin
  rw [State.advance_mem, State.advance_pc, ← hi]
  exact congrArg₂ bigEndian h0 h1

end Sys2Proof.Machine
end

section
/-! SUPPORT. Encoding and decoding (R70 to R81): what the decoder reads from each format, what its fields put together again, all that it
can answer, and the rows of R76 as conditions on nibbles. -/

namespace Sys2Proof

/-! ### the operands, as numbers (R73) -/

theorem fieldA_toNat (op : Word) : (fieldA op).toNat = op.toNat % 4096 := by
  rw [fieldA, BitVec.toNat_ofNat, nib_13]; omega

theorem fieldN_toNat (op : Word) : (fieldN op).toNat = op.toNat % 256 := by
  rw [fieldN, BitVec.toNat_ofNat, nib_23]; omega

theorem fieldX_val (op : Word) : (fieldX op).val = op.toNat / 256 % 16 := by
  rw [fieldX, Fin.val_ofNat, nib_11, Nat.mod_mod]

theorem fieldY_val (op : Word) : (fieldY op).val = op.toNat / 16 % 16 := by
  rw [fieldY, Fin.val_ofNat, nib_22, Nat.mod_mod]

theorem fieldH_val (op : Word) : (fieldH op).val = op.toNat % 16 := by
  rw [fieldH, Fin.val_ofNat, nib_33, Nat.mod_mod]

/-- A decoded Address is in range (R73). -/
theorem addressOk_fieldA (op : Word) : addressOk (fieldA op) = true := by
  have h : (fieldA op).toNat < 4096 := by rw [fieldA_toNat]; omega
  exact decide_eq_true h

/-! ### the formats, as sums (R72): the major opcode of `b` is `b / 4096`, its minor opcode `b % 4096` -/

section
variable {b : Nat} (hb : b < 65536)
include hb

theorem formA_toNat (hlo : b % 4096 = 0) {a : Word} (ha : a.toNat < 4096) : (formA b a).toNat = b + a.toNat := by
  have h := toNat_formA (b / 4096) (by omega) ha
  rwa [show 4096 * (b / 4096) = b by omega] at h

theorem formXN_toNat (hlo : b % 4096 = 0) (x : Reg) (n : Byte) : (formXN b x n).toNat = b + 256 * x.val + n.toNat := by
  have h := toNat_formXN (b / 4096) (by omega) x n
  rwa [show 4096 * (b / 4096) = b by omega] at h

theorem formXYH_toNat (hlo : b % 4096 = 0) (x y : Reg) (n : Fin 16) :
    (formXYH b x y n).toNat = b + 256 * x.val + 16 * y.val + n.val := by
  have h := toNat_formXYH (b / 4096) (by omega) x y n
  rwa [show 4096 * (b / 4096) = b by omega] at h

theorem formXY_toNat (hlo : b % 4096 < 16) (x y : Reg) : (formXY b x y).toNat = b + 256 * x.val + 16 * y.val := by
  have h := toNat_formXY (b / 4096) (b % 4096) (by omega) hlo x y
  rw [Nat.div_add_mod] at h
  omega

theorem formX_toNat (hlo : b % 4096 < 256) (x : Reg) : (formX b x).toNat = b + 256 * x.val := by
  have h := toNat_formX (b / 4096) (b % 4096) (by omega) hlo x
  rw [Nat.div_add_mod] at h
  omega

/-! ### what the decoder reads from each format -/

@[simp] theorem formA_fields (hlo : b % 4096 = 0) {a : Word} (ha : a.toNat < 4096) :
    nib (formA b a) 0 0 = b / 4096 ∧ fieldA (formA b a) = a := by
  have e := formA_toNat hb hlo ha
  refine ⟨?_, BitVec.eq_of_toNat_eq ?_⟩
  · rw [nib_00]; omega
  · rw [fieldA_toNat]; omega

@[simp] theorem formXN_fields (hlo : b % 4096 = 0) (x : Reg) (n : Byte) :
    nib (formXN b x n) 0 0 = b / 4096 ∧ fieldX (formXN b x n) = x ∧ fieldN (formXN b x n) = n := by
  have e := formXN_toNat hb hlo x n
  have hn := n.isLt
  refine ⟨?_, Fin.ext ?_, BitVec.eq_of_toNat_eq ?_⟩
  · rw [nib_00]; omega
  · rw [fieldX_val]; omega
  · rw [fieldN_toNat]; omega

@[simp] theorem formXYH_fields (hlo : b % 4096 = 0) (x y : Reg) (n : Fin 16) :
    nib (formXYH b x y n) 0 0 = b / 4096 ∧
      fieldX (formXYH b x y n) = x ∧ fieldY (formXYH b x y n) = y ∧ fieldH (formXYH b x y n) = n := by
  have e := formXYH_toNat hb hlo x y n
  refine ⟨?_, Fin.ext ?_, Fin.ext ?_, Fin.ext ?_⟩
  · rw [nib_00]; omega
  · rw [fieldX_val]; omega
  · rw [fieldY_val]; omega
  · rw [fieldH_val]; omega

@[simp] theorem formXY_fields (hlo : b % 4096 < 16) (x y : Reg) :
    nib (formXY b x y) 0 0 = b / 4096 ∧ nib (formXY b x y) 3 3 = b % 4096 ∧
      fieldX (formXY b x y) = x ∧ fieldY (formXY b x y) = y := by
  have e := formXY_toNat hb hlo x y
  refine ⟨?_, ?_, Fin.ext ?_, Fin.ext ?_⟩
  · rw [nib_00]; omega
  · rw [nib_33]; omega
  · rw [fieldX_val]; omega
  · rw [fieldY_val]; omega

@[simp] theorem formX_fields (hlo : b % 4096 < 256) (x : Reg) :
    nib (formX b x) 0 0 = b / 4096 ∧ nib (formX b x) 2 3 = b % 4096 ∧ nib (formX b x) 3 3 = b % 16 ∧
      fieldX (formX b x) = x := by
  have e := formX_toNat hb hlo x
  refine ⟨?_, ?_, ?_, Fin.ext ?_⟩
  · rw [nib_00]; omega
  · rw [nib_23]; omega
  · rw [nib_33]; omega
  · rw [fieldX_val]; omega

end

/-! ### an opcode from what the decoder read of it -/

section
variable {op : Word} {b : Nat} (h0 : nib op 0 0 = b / 4096)
include h0

theorem formA_of_nib (hlo : b % 4096 = 0) : formA b (fieldA op) = op := by
  have hop := op.isLt
  have hA := fieldA_toNat op
  rw [nib_00] at h0
  apply BitVec.eq_of_toNat_eq
  rw [formA_toNat (by omega) hlo (by omega)]
  omega

theorem formXN_of_nib (hlo : b % 4096 = 0) : formXN b (fieldX op) (fieldN op) = op := by
  have hop := op.isLt
  rw [nib_00] at h0
  apply BitVec.eq_of_toNat_eq
  rw [formXN_toNat (by omega) hlo, fieldX_val, fieldN_toNat]
  omega

theorem formXYH_of_nib (hlo : b % 4096 = 0) : formXYH b (fieldX op) (fieldY op) (fieldH op) = op := by
  have hop := op.isLt
  rw [nib_00] at h0
  apply BitVec.eq_of_toNat_eq
  rw [formXYH_toNat (by omega) hlo, fieldX_val, fieldY_val, fieldH_val]
  omega

theorem formXY_of_nibs (h3 : nib op 3 3 = b % 4096) : formXY b (fieldX op) (fieldY op) = op := by
  have hop := op.isLt
  rw [nib_00] at h0
  rw [nib_33] at h3
  apply BitVec.eq_of_toNat_eq
  rw [formXY_toNat (by omega) (by omega), fieldX_val, fieldY_val]
  omega

theorem formX_of_nibs (h23 : nib op 2 3 = b % 4096) : formX b (fieldX op) = op := by
  have hop := op.isLt
  rw [nib_00] at h0
  rw [nib_23] at h23
  apply BitVec.eq_of_toNat_eq
  rw [formX_toNat (by omega) (by omega), fieldX_val]
  omega

end

/-- The mask 0xFF0F clears the `Y` nibble (D32). -/
theorem toNat_and_FF0F (op : Word) : (op &&& 0xFF0F).toNat = 256 * (op.toNat / 256) + nib op 3 3 := by
  have h1 := and_block op.toNat 8 8
  have h2 := and_block op.toNat 0 4
  have h3 : (op &&& 0xFF0F).toNat = (op.toNat &&& (2 ^ 8 * (2 ^ 8 - 1))) ||| (op.toNat &&& (2 ^ 0 * (2 ^ 4 - 1))) := by
    rw [← Nat.and_or_distrib_left]; rfl
  have := op.isLt
  rw [h3, h1, h2, or_field 8 (by omega) (by omega), nib_33]
  omega

/-! ### the masks of R76, as conditions on nibbles -/

section
variable (op v : Word)

theorem and_F000_eq_iff : op &&& 0xF000 = v ↔ nib op 0 0 = v.toNat / 4096 ∧ v.toNat % 4096 = 0 := by
  rw [← BitVec.toNat_inj, toNat_and_F000]
  omega

theorem and_F00F_eq_iff : op &&& 0xF00F = v ↔ nib op 0 0 = v.toNat / 4096 ∧ nib op 3 3 = v.toNat % 4096 := by
  have h3 := nib_33 op
  rw [← BitVec.toNat_inj, toNat_and_F00F]
  omega

theorem and_F0FF_eq_iff : op &&& 0xF0FF = v ↔ nib op 0 0 = v.toNat / 4096 ∧ nib op 2 3 = v.toNat % 4096 := by
  have h23 := nib_23 op
  rw [← BitVec.toNat_inj, toNat_and_F0FF]
  omega

theorem and_FFFF_eq : op &&& 0xFFFF = op := BitVec.and_allOnes

end

/-- The encoder's form of an opcode in a row of the mask 0xF00F, where it leaves out `Y`: the opcode with that nibble cleared (D32). -/
theorem formX_eq_and_FF0F {op v : Word} (h : op &&& 0xF00F = v) : formX v.toNat (fieldX op) = op &&& 0xFF0F := by
  obtain ⟨h0, h3⟩ := (and_F00F_eq_iff op v).mp h
  have hv := v.isLt
  have hmask := toNat_and_FF0F op
  rw [nib_00] at h0
  rw [nib_33] at h3 hmask
  apply BitVec.eq_of_toNat_eq
  rw [formX_toNat hv (by omega), fieldX_val]
  omega

/-! ### all that the decoder can answer -/

/-- An answer of the decoder to `op`: a refusal that carries it, an instruction that it is the encoding of, or a shift, whose row
it belongs to. -/
inductive DecodeAnswer (op : Word) : Except DecodeError Instr → Prop
  | refused : DecodeAnswer op (.error (.noPattern op))
  | encoded {i : Instr} (hw : i.wellFormed = true) (he : encode i = op) : DecodeAnswer op (.ok i)
  | shr (h : op &&& 0xF00F = 0x8006) : DecodeAnswer op (.ok (.shr (fieldX op)))
  | shl (h : op &&& 0xF00F = 0x800E) : DecodeAnswer op (.ok (.shl (fieldX op)))

/-- Under high nibble 8 the low nibble selects; only the two shifts leave `Y` out (R75, R78). -/
theorem decode8_answer {op : Word} (h0 : nib op 0 0 = 8) : DecodeAnswer op (decode8 op) := by
  unfold decode8
  split
  case h_7 h3 => exact .shr ((and_F00F_eq_iff op _).mpr ⟨h0, h3⟩)
  case h_9 h3 => exact .shl ((and_F00F_eq_iff op _).mpr ⟨h0, h3⟩)
  case h_10 => exact .refused
  all_goals next h3 => exact .encoded rfl (formXY_of_nibs h0 h3)

/-- Under high nibble E the low byte selects (R75). -/
theorem decodeE_answer {op : Word} (h0 : nib op 0 0 = 0xE) : DecodeAnswer op (decodeE op) := by
  unfold decodeE
  split
  case h_3 => exact .refused
  all_goals next h23 => exact .encoded rfl (formX_of_nibs h0 h23)

/-- Under high nibble F the low byte selects (R75). -/
theorem decodeF_answer {op : Word} (h0 : nib op 0 0 = 0xF) : DecodeAnswer op (decodeF op) := by
  unfold decodeF
  split
  case h_10 => exact .refused
  all_goals next h23 => exact .encoded rfl (formX_of_nibs h0 h23)

/-- The decoder, major opcode by major opcode (R75). -/
theorem decode_answer (op : Word) : DecodeAnswer op (decode op) := by
  unfold decode
  split
  case h_1 =>
    split
    · next h => exact .encoded rfl h.symm
    · split
      · next h => exact .encoded rfl h.symm
      · exact .refused
  case h_6 h0 | h_10 h0 =>
    split
    · next h3 => exact .encoded rfl (formXY_of_nibs h0 h3)
    · exact .refused
  case h_9 h0 => exact decode8_answer h0
  case h_14 h0 => exact .encoded rfl (formXYH_of_nib h0 rfl)
  case h_15 h0 => exact decodeE_answer h0
  case h_16 h0 => exact decodeF_answer h0
  case h_17 => exact .refused
  case h_2 h0 | h_3 h0 | h_11 h0 | h_12 h0 => exact .encoded (addressOk_fieldA op) (formA_of_nib h0 rfl)
  case h_4 h0 | h_5 h0 | h_7 h0 | h_8 h0 | h_13 h0 => exact .encoded rfl (formXN_of_nib h0 rfl)

/-- The row of Shr decodes to Shr whatever its `Y` nibble (R78). -/
theorem decode_shr {op : Word} (h : op &&& 0xF00F = 0x8006) : decode op = .ok (.shr (fieldX op)) := by
  obtain ⟨h0, h3⟩ := (and_F00F_eq_iff op _).mp h
  simp [decode, decode8, h0, h3]

/-- The row of Shl decodes to Shl whatever its `Y` nibble (R78). -/
theorem decode_shl {op : Word} (h : op &&& 0xF00F = 0x800E) : decode op = .ok (.shl (fieldX op)) := by
  obtain ⟨h0, h3⟩ := (and_F00F_eq_iff op _).mp h
  simp [decode, decode8, h0, h3]

/-! ### the round trips -/

/-- The decoder reads the operands that the encoder has put in, format by format (R75, R81). -/
theorem decode_encode {i : Instr} (hi : i.wellFormed = true) : decode (encode i) = .ok i := by
  cases i with
  | clearScreen => rfl
  | ret => rfl
  | goto a | call a | setIndex a | offsetGoto a =>
    have ha : a.toNat < 4096 := of_decide_eq_true hi
    simp [encode, decode, ha]
  | skipEqConst x n | skipNeqConst x n | setConst x n | addConst x n | rand x n => simp [encode, decode]
  | skipEq x y | skipNeq x y => simp [encode, decode]
  | set x y | or x y | and x y | xor x y | add x y | sub x y | inverseSub x y => simp [encode, decode, decode8]
  | shr x | shl x => simp [encode, decode, decode8]
  | draw x y n => simp [encode, decode]
  | skipKey x | skipNotKey x => simp [encode, decode, decodeE]
  | getDelay x | waitKey x | setDelay x | setSound x | addIndex x | setIndexChar x | bcd x | regDump x | regLoad x =>
    simp [encode, decode, decodeF]

/-- Decoding the two bytes of an opcode is decoding the opcode (R52, R70). -/
theorem decodeBytes_wordBytes_append (w : Word) (rest : List Byte) :
    decodeBytes (wordBytes w ++ rest) = (decode w).map (·, rest) := by
  simp only [wordBytes, List.cons_append, List.nil_append, decodeBytes, bigEndian_wordBytes]
  cases decode w with
  | ok i => rfl
  | error e => rfl

/-- Settles O1: the round trip of opcodes, and of the bytes through them. -/
theorem decodeOfEncodeIsTheInstruction : Obligations.DecodeOfEncodeIsTheInstruction := by
  refine fun i hi => ⟨decode_encode hi, fun rest => ?_⟩
  rw [decodeBytes_wordBytes_append, decode_encode hi]
  rfl

/-- Where an opcode decodes, its instruction is one of the answers that are not a refusal. -/
theorem answer_of_decode {op : Word} {i : Instr} (h : decode op = .ok i) : DecodeAnswer op (.ok i) := h ▸ decode_answer op

/-- Settles O2: only the two rows of shifts leave the `Y` nibble open; outside them the opcode is the encoding. -/
theorem decodedInstructionReencodes : Obligations.DecodedInstructionReencodes := by
  intro op i h
  split
  · next hs =>
    obtain hs | hs := hs
    · obtain rfl := Except.ok.inj (h.symm.trans (decode_shr hs))
      exact ⟨rfl, formX_eq_and_FF0F hs⟩
    · obtain rfl := Except.ok.inj (h.symm.trans (decode_shl hs))
      exact ⟨rfl, formX_eq_and_FF0F hs⟩
  · next hs =>
    cases answer_of_decode h with
    | encoded hw he => exact ⟨hw, he⟩
    | shr h' => exact absurd (.inl h') hs
    | shl h' => exact absurd (.inr h') hs

/-- Settles O6: the rows of Shr and Shl leave `Y` open, and any other decoded instruction has one opcode, its encoding. -/
theorem onlyShiftsIgnoreANibble : Obligations.OnlyShiftsIgnoreANibble := by
  refine ⟨fun x y => ⟨?_, ?_⟩, fun op op' i h h' hne => ?_⟩
  · simp [decode_shr (beq_iff_eq.mp (formXY_covers "Shr" 8 6 (by decide) (by decide) x y))]
  · simp [decode_shl (beq_iff_eq.mp (formXY_covers "Shl" 8 14 (by decide) (by decide) x y))]
  · cases answer_of_decode h with
    | shr _ => exact ⟨_, .inl rfl⟩
    | shl _ => exact ⟨_, .inr rfl⟩
    | encoded _ he =>
      cases answer_of_decode h' with
      | encoded _ he' => exact absurd (he.symm.trans he') hne
      | shr _ => exact ⟨_, .inl rfl⟩
      | shl _ => exact ⟨_, .inr rfl⟩

/-! ### the decoder against the table -/

/-- The opcode of every well-formed instruction belongs to its row. -/
theorem encode_covered (i : Instr) : Laws.EncodesItsRow.Statement i := by
  cases i with
  | clearScreen => exact Laws.EncodesItsRow.clearScreen
  | ret => exact Laws.EncodesItsRow.ret
  | goto a => exact Laws.EncodesItsRow.goto a
  | call a => exact Laws.EncodesItsRow.call a
  | skipEqConst x n => exact Laws.EncodesItsRow.skipEqConst x n
  | skipNeqConst x n => exact Laws.EncodesItsRow.skipNeqConst x n
  | skipEq x y => exact Laws.EncodesItsRow.skipEq x y
  | setConst x n => exact Laws.EncodesItsRow.setConst x n
  | addConst x n => exact Laws.EncodesItsRow.addConst x n
  | set x y => exact Laws.EncodesItsRow.set x y
  | or x y => exact Laws.EncodesItsRow.or x y
  | and x y => exact Laws.EncodesItsRow.and x y
  | xor x y => exact Laws.EncodesItsRow.xor x y
  | add x y => exact Laws.EncodesItsRow.add x y
  | sub x y => exact Laws.EncodesItsRow.sub x y
  | shr x => exact Laws.EncodesItsRow.shr x
  | inverseSub x y => exact Laws.EncodesItsRow.inverseSub x y
  | shl x => exact Laws.EncodesItsRow.shl x
  | skipNeq x y => exact Laws.EncodesItsRow.skipNeq x y
  | setIndex a => exact Laws.EncodesItsRow.setIndex a
  | offsetGoto a => exact Laws.EncodesItsRow.offsetGoto a
  | rand x n => exact Laws.EncodesItsRow.rand x n
  | draw x y n => exact Laws.EncodesItsRow.draw x y n
  | skipKey x => exact Laws.EncodesItsRow.skipKey x
  | skipNotKey x => exact Laws.EncodesItsRow.skipNotKey x
  | getDelay x => exact Laws.EncodesItsRow.getDelay x
  | waitKey x => exact Laws.EncodesItsRow.waitKey x
  | setDelay x => exact Laws.EncodesItsRow.setDelay x
  | setSound x => exact Laws.EncodesItsRow.setSound x
  | addIndex x => exact Laws.EncodesItsRow.addIndex x
  | setIndexChar x => exact Laws.EncodesItsRow.setIndexChar x
  | bcd x => exact Laws.EncodesItsRow.bcd x
  | regDump x => exact Laws.EncodesItsRow.regDump x
  | regLoad x => exact Laws.EncodesItsRow.regLoad x

/-- A decoded opcode belongs to the row of its instruction (R74, R76). -/
theorem covered_of_decode {op : Word} {i : Instr} (h : decode op = .ok i) :
    ∃ r ∈ opcodeTable, r.covers op = true ∧ r.mnemonic = i.mnemonic := by
  cases answer_of_decode h with
  | encoded hw he =>
    obtain ⟨r, hr, hm, hc⟩ := encode_covered i hw
    exact ⟨r, hr, he ▸ hc, hm⟩
  | shr h' => exact ⟨⟨"Shr", 0x8006, 0xF00F⟩, by decide, beq_iff_eq.mpr h', rfl⟩
  | shl h' => exact ⟨⟨"Shl", 0x800E, 0xF00F⟩, by decide, beq_iff_eq.mpr h', rfl⟩

/-- An opcode of any row decodes: the row fixes the nibbles that the decoder selects by (R75, R76). -/
theorem decode_of_covered (op : Word) : ∀ r ∈ opcodeTable, r.covers op = true → ∃ i, decode op = .ok i := by
  simp only [opcodeTable, opcodeRowsLow, opcodeRowsHigh, List.forall_mem_append, List.forall_mem_cons, List.not_mem_nil,
    OpcodeRow.covers, beq_iff_eq, and_FFFF_eq, and_F000_eq_iff, and_F00F_eq_iff, and_F0FF_eq_iff]
  and_intros
  · rintro rfl
    exact ⟨_, rfl⟩
  · rintro rfl
    exact ⟨_, rfl⟩
  all_goals simp +contextual [decode, decode8, decodeE, decodeF]

/-- Settles O3: a decoded opcode is covered, a covered one decodes, and the only refusal carries the opcode. -/
theorem decoderAgreesWithTheOpcodeTable : Obligations.DecoderAgreesWithTheOpcodeTable := by
  refine fun op => ⟨fun i => covered_of_decode, fun hnone => ?_, fun herr r hr => ?_⟩
  · have hans := decode_answer op
    cases hd : decode op with
    | ok i =>
      obtain ⟨r, hr, hc, -⟩ := covered_of_decode hd
      exact absurd hc (by simp [hnone r hr])
    | error e =>
      rw [hd] at hans
      cases hans
      rfl
  · rw [Bool.eq_false_iff]
    intro hc
    obtain ⟨i, hi⟩ := decode_of_covered op r hr hc
    exact absurd (hi.symm.trans herr) (by simp)

/-- Two different rows differ in a bit that both masks keep (R74). -/
theorem eq_of_values_agree : ∀ r ∈ opcodeTable, ∀ r' ∈ opcodeTable, r.value &&& r'.mask = r'.value &&& r.mask → r = r' := by
  decide

/-- Settles O4: rows that cover one opcode agree on the bits that both masks keep. -/
theorem noOpcodeMatchesTwoRows : Obligations.NoOpcodeMatchesTwoRows := by
  intro op r hr r' hr' h h'
  refine eq_of_values_agree r hr r' hr' ?_
  rw [← beq_iff_eq.mp h, ← beq_iff_eq.mp h', BitVec.and_assoc, BitVec.and_assoc, BitVec.and_comm r.mask]

/-- Settles O5: each word is evaluated. -/
theorem writtenOutWordsDecode : Obligations.WrittenOutWordsDecode :=
  ⟨rfl, rfl, rfl, rfl, rfl, rfl, rfl, rfl, rfl, rfl, rfl, rfl⟩

end Sys2Proof
end

section
/-! SUPPORT. The cycle (R92): what it answers in each of its branches, the state that step 5 starts from, and what step 6 adds; the
statements about a step that is a cycle are read off these. -/

namespace Sys2Proof.Machine

/-! ### the branches of a cycle -/

/-- With no opcode at `PC` the run ends (R93). -/
theorem State.cycle_of_noOpcode {s : State} (hp : 4095 ≤ s.pc.toNat) : s.cycle = .next { s with status := .ended } := by
  have h : ¬ s.opcodeAtPc = true := by rw [s.opcodeAtPc_iff]; omega
  exact if_neg h

/-- An opcode that matches no pattern faults (R95). -/
theorem State.cycle_of_decode_error {s : State} {e : DecodeError} (hp : s.pc.toNat ≤ 4094) (hd : decode s.fetch = .error e) :
    s.cycle = .next (s.raise (.invalidOpcode s.fetch s.pc)) := by
  simp only [State.cycle, s.opcodeAtPc_iff.mpr hp, if_true, hd]

/-- An opcode that decodes is run after the key refresh, and step 6 follows (R96, R97). -/
theorem State.cycle_of_decode_ok {s t : State} {i : Instr} (hp : s.pc.toNat ≤ 4094) (hd : decode s.fetch = .ok i)
    (ht : exec i s.refreshKeys = .next t) : s.cycle = .next t.endOfCycle := by
  simp only [State.cycle, s.opcodeAtPc_iff.mpr hp, if_true, hd, ht, finishCycle]

/-- Every cycle answers a next state. -/
theorem State.cycle_next (s : State) : ∃ t, s.cycle = .next t := by
  by_cases hp : s.pc.toNat ≤ 4094
  · cases hd : decode s.fetch with
    | error e => exact ⟨_, State.cycle_of_decode_error hp hd⟩
    | ok i =>
      obtain ⟨t, ht⟩ := exec_next i s.refreshKeys
      exact ⟨_, State.cycle_of_decode_ok hp hd ht⟩
  · exact ⟨_, State.cycle_of_noOpcode (by omega)⟩

/-- The owner's choice leaves the opcode that is fetched as it was (R94). -/
theorem State.consumeAgent_fetch (s : State) : s.consumeAgent.fetch = s.mem.readWord s.pc.toNat := by
  simp only [State.fetch, State.consumeAgent_mem, State.consumeAgent_pc]

/-- Where the opcode at `PC` decodes, a step that is a cycle is the instruction at step 5 followed by step 6 (R92). -/
theorem step_of_decode {s t : State} {i : Instr} (hc : s.CycleNext) (hp : s.pc.toNat ≤ 4094)
    (hd : decode (s.mem.readWord s.pc.toNat) = .ok i) (ht : exec i s.atStepFive = .next t) :
    step s = .next t.endOfCycle := by
  have hd' : decode s.consumeAgent.fetch = .ok i := s.consumeAgent_fetch ▸ hd
  exact (step_of_cycleNext hc).trans (State.cycle_of_decode_ok (by simpa using hp) hd' ht)

/-- As `step_of_decode`, from what the step answered. -/
theorem exec_of_step {s t : State} {i : Instr} (hc : s.CycleNext) (hp : s.pc.toNat ≤ 4094)
    (hd : decode (s.mem.readWord s.pc.toNat) = .ok i) (hs : step s = .next t) :
    ∃ u, exec i s.atStepFive = .next u ∧ t = u.endOfCycle := by
  obtain ⟨u, hu⟩ := exec_next i s.atStepFive
  exact ⟨u, hu, Host.Outcome.next.inj (hs.symm.trans (step_of_decode hc hp hd hu))⟩

/-! ### the state of step 5 -/

/-- Step 5 starts with the keys refreshed and the environment advanced, and nothing else changed (R91, R96). -/
theorem State.atStepFive_eq (s : State) :
    s.atStepFive = { s with keys := s.consumeAgent.nextKeys, env := s.atStepFive.env } := by
  simp [State.atStepFive, State.refreshKeys]

/-- The host has then been asked for the keys once (R96). -/
theorem State.atStepFive_calls (s : State) :
    s.atStepFive.env.calls = .getKeys s.consumeAgent.nextKeys :: s.env.calls := by
  simp [State.atStepFive]

/-- Step 5 starts with the status of the state before the step. -/
theorem State.atStepFive_status (s : State) : s.atStepFive.status = s.status := by
  simp [State.atStepFive]

/-! ### what step 5 can do to the host's record and to the status -/

/-- No instruction calls the host (R216): Rand alone touches the environment, and records nothing. -/
theorem Effect.calls_eq {s t : State} {i : Instr} (h : Effect s i t) : t.env.calls = s.env.calls := by
  cases h <;> simp

/-- An instruction that faults does so by a fault entry alone (R206, R207). -/
theorem Effect.eq_raise_of_isFaulted {s t : State} {i : Instr} (h : Effect s i t) (hs : s.status.isFaulted = false)
    (ht : t.status.isFaulted = true) : ∃ k, t = s.raise k := by
  cases h with
  | fault _ k => exact ⟨k, rfl⟩
  | wait x => exact absurd ht Bool.false_ne_true
  | _ => simp [hs] at ht

/-! ### step 6 -/

/-- While Running, step 6 is the flush (R102). -/
theorem State.endOfCycle_of_running {s : State} (h : s.status = .running) : s.endOfCycle = s.flush := by
  simp only [State.endOfCycle, h]

/-- A suspended or stopped cycle has no step 6 (R103, R104). -/
theorem State.endOfCycle_of_not_running {s : State} (h : s.status ≠ .running) : s.endOfCycle = s := by
  unfold State.endOfCycle
  split
  · next hr => exact absurd hr h
  all_goals rfl

/-- All of step 6 (R102 to R104). -/
theorem State.endOfCycle_eq_ite (s : State) :
    s.endOfCycle = if s.status = .running ∧ s.redraw = true then s.record (.draw s.fb) else s := by
  by_cases h : s.status = .running
  · simp only [State.endOfCycle_of_running h, State.flush, h, true_and]
  · rw [State.endOfCycle_of_not_running h, if_neg fun hr => h hr.1]

/-! ### a word in memory -/

/-- The big-endian word of two bytes that are those of an opcode is the opcode (R52, R70). -/
theorem Memory.readWord_of_bytes {m : Memory} {a : Nat} {w : Word} (h : [m.read a, m.read (a + 1)] = wordBytes w) :
    m.readWord a = w := by
  obtain ⟨h0, h1⟩ : m.read a = BitVec.ofNat 8 (w.toNat / 256) ∧ m.read (a + 1) = BitVec.ofNat 8 w.toNat := by
    simpa [wordBytes] using h
  rw [Memory.readWord, h0, h1, bigEndian_wordBytes]

/-- The bytes of an opcode stored in memory are fetched as that opcode (R52, R60). -/
theorem Memory.readWord_storeBytes_wordBytes {m : Memory} (hm : m.wf = true) {a : Nat} (ha : a ≤ 4094) (w : Word) :
    (m.storeBytes a (wordBytes w)).readWord a = w := by
  have hfit : a + (wordBytes w).length ≤ Config.memSize := Nat.add_le_add_right ha 2
  have h0 := Memory.read_storeBytes_inside (bs := wordBytes w) hm (k := 0) Nat.two_pos hfit
  have h1 := Memory.read_storeBytes_inside (bs := wordBytes w) hm (k := 1) Nat.one_lt_two hfit
  exact Memory.readWord_of_bytes (congrArg₂ (fun b c => [b, c]) h0 h1)

/-! ### a word placed for the next step (log 15) -/

/-- Placing a 16-bit word is placing the opcode that it is. -/
theorem State.withFetchWord_toNat (s : State) (w : Word) : s.withFetchWord 16 w.toNat = s.placeOpcode w := by
  rw [State.withFetchWord, Nat.mod_eq_of_lt w.isLt, BitVec.ofNat_toNat, BitVec.setWidth_eq]

/-- A placed opcode has a cycle next. -/
theorem State.placeOpcode_cycleNext (s : State) (w : Word) : (s.placeOpcode w).CycleNext := ⟨rfl, rfl⟩

/-- `PC` is then where a fetch is possible: where it was, or at 0x200 (R93). -/
theorem State.placeOpcode_pc_le (s : State) (w : Word) : (s.placeOpcode w).pc.toNat ≤ 4094 := by
  simp only [State.placeOpcode]
  split
  · next h => exact s.opcodeAtPc_iff.mp h
  · decide

/-- A placed opcode is what stands at `PC`. -/
theorem State.placeOpcode_readWord {s : State} (hm : s.mem.wf = true) (w : Word) :
    (s.placeOpcode w).mem.readWord (s.placeOpcode w).pc.toNat = w :=
  Memory.readWord_storeBytes_wordBytes hm (s.placeOpcode_pc_le w) w

/-! ### the statements -/

/-- Settles O42: the calls are those of the key refresh, the instruction's none, and the flush. -/
theorem cycleFlushesOnceWhenRedrawIsSet : Obligations.CycleFlushesOnceWhenRedrawIsSet := by
  intro s t i hc hp hd hs hrun
  obtain ⟨u, hu, rfl⟩ := exec_of_step hc hp hd hs
  have hcalls : u.env.calls = .getKeys s.consumeAgent.nextKeys :: s.env.calls :=
    (exec_effect hu).calls_eq.trans s.atStepFive_calls
  rw [State.endOfCycle_status] at hrun
  rw [State.endOfCycle_redraw, State.endOfCycle_fb, State.endOfCycle_of_running hrun, State.flush_calls, hcalls]

/-- Settles O43: the instruction does a fault entry at the state of step 5, and step 6 does not run. -/
theorem faultInACycleKeepsOnlyTheKeyRefresh : Obligations.FaultInACycleKeepsOnlyTheKeyRefresh := by
  intro s t i hc hp hd hs hfault
  obtain ⟨u, hu, rfl⟩ := exec_of_step hc hp hd hs
  have hrunning : s.atStepFive.status.isFaulted = false := by rw [s.atStepFive_status, hc.1]; rfl
  rw [State.endOfCycle_status] at hfault
  obtain ⟨k, rfl⟩ := (exec_effect hu).eq_raise_of_isFaulted hrunning hfault
  exact ⟨congrArg (State.raise · k) s.atStepFive_eq, s.atStepFive_calls⟩

/-- Settles O46, by the status: a cycle or a tick, as the owner chose, or a poll. -/
theorem everyEnabledStepAnswers : Obligations.EveryEnabledStepAnswers := by
  refine ⟨exec_next, fun s h => ?_⟩
  cases hs : s.status with
  | running =>
    cases ha : s.nextAgent with
    | tick => exact ⟨_, step_of_tickNext ⟨hs, ha⟩⟩
    | cycle =>
      obtain ⟨t, ht⟩ := s.consumeAgent.cycle_next
      exact ⟨t, (step_of_cycleNext ⟨hs, ha⟩).trans ht⟩
  | waiting => exact ⟨_, step_of_waiting hs⟩
  | ended => simp [hs, Status.terminal] at h
  | faulted k => simp [hs, Status.terminal] at h

/-- Settles O51: the placed word stands at `PC` with a cycle next, so the step runs what it decodes to. -/
theorem placedWordRunsNext : Obligations.PlacedWordRunsNext := by
  intro s w i hm hd
  rw [s.withFetchWord_toNat w]
  have hc := s.placeOpcode_cycleNext w
  obtain ⟨t, ht⟩ := exec_next i (s.placeOpcode w).atStepFive
  exact ⟨hc, t, ht, step_of_decode hc (s.placeOpcode_pc_le w) ((State.placeOpcode_readWord hm w).symm ▸ hd) ht⟩

/-- Settles O39, by the first branch of a cycle; the owner's choice calls nobody. -/
theorem cycleWithoutAnOpcodeEndsTheRun : Obligations.CycleWithoutAnOpcodeEndsTheRun := by
  intro s hc hp
  exact ⟨(step_of_cycleNext hc).trans (State.cycle_of_noOpcode (by simpa using hp)), s.consumeAgent_calls⟩

/-- Settles O40, by the branch of a refused opcode, which comes before the key refresh. -/
theorem illegalOpcodeFaultsBeforeTheKeyRefresh : Obligations.IllegalOpcodeFaultsBeforeTheKeyRefresh := by
  intro s e hc hp hd
  have hd' : decode s.consumeAgent.fetch = .error e := s.consumeAgent_fetch ▸ hd
  have hstep := (step_of_cycleNext hc).trans (State.cycle_of_decode_error (by simpa using hp) hd')
  rw [s.consumeAgent_fetch, s.consumeAgent_pc] at hstep
  exact ⟨hstep, s.consumeAgent_calls⟩

/-- Settles O41: the bytes of a well-formed instruction decode to it, so both premises are about the decoded opcode. -/
theorem stepRunsTheDecodedInstruction : Obligations.StepRunsTheDecodedInstruction := by
  intro s i hc hp h
  have hd : decode (s.mem.readWord s.pc.toNat) = .ok i := by
    obtain hd | ⟨hw, hb⟩ := h
    · exact hd
    · rw [Memory.readWord_of_bytes hb, decode_encode hw]
  obtain ⟨t, ht⟩ := exec_next i s.atStepFive
  refine ⟨t, ht, rfl, s.atStepFive_eq, ?_⟩
  rw [step_of_decode hc hp hd ht, t.endOfCycle_eq_ite]
  rfl

end Sys2Proof.Machine
end

section
/-! SUPPORT. Control transfer (R110 to R121): what is left unchanged by a jump and by a skip, what Call and Return do to the stack, and
the statements about the eight transfers. -/

namespace Sys2Proof.Machine

/-! ### `PC` alone changes -/

/-- A jump loads `PC` and leaves the rest, memory included, as it was (R110). -/
theorem PcOnly.jump (s : State) (w : Word) : PcOnly s (s.jump w) := ⟨rfl, fun _ => rfl⟩

/-- An instruction that is a conditional skip advances by 4 where its condition holds, else by 2 (R99, R121). -/
theorem exists_pcOnly_of_exec_skipIf {i : Instr} {s : State} {c : Bool} {p : Prop} [Decidable p]
    (he : exec i s = .next (s.skipIf c)) (hc : c = true ↔ p) :
    ∃ t, exec i s = .next t ∧ t.pc = (if p then s.pc + 4 else s.pc + 2) ∧ PcOnly s t :=
  ⟨s.skipIf c, he, (s.skipIf_pc c).trans (if_congr hc rfl rfl), PcOnly.jump s _⟩

/-! ### Call and Return -/

/-- A Call to an address inside memory pushes `PC + 2` and jumps (R114). -/
theorem exec_call_of_lt {a : Word} {s : State} (ha : a.toNat < Config.memSize) :
    exec (.call a) s = .next ((s.push (s.pc + 2)).jump a) :=
  congrArg Host.Outcome.next (State.checkTop_of_lt ha)

/-- A Return on a non-empty stack moves the newest entry to `PC` (R112). -/
theorem exec_ret_of_cons {s : State} {w : Word} {rest : List Word} (h : s.stack = w :: rest) :
    exec .ret s = .next { s with pc := w, stack := rest } := by
  simp only [exec, execRet, State.popToPc, h]

/-- A Return on an empty stack changes nothing (R112). -/
theorem exec_ret_of_nil {s : State} (h : s.stack = []) : exec .ret s = .next s := by
  simp only [exec, execRet, State.popToPc, h]

/-! ### the statements -/

/-- Settles O18: the Call leaves `PC + 2` above the old stack, and those are what the Return takes apart. -/
theorem returnComesBackAfterTheCall : Obligations.ReturnComesBackAfterTheCall := by
  intro a s t u ha hcall hu
  obtain rfl := Host.Outcome.next.inj ((exec_call_of_lt ha).symm.trans hcall)
  exact exec_ret_of_cons hu

/-- Settles O19, by the bounds check on the sum; below 4096 the sum is not changed by the width of `PC`. -/
theorem offsetGotoAddsV0 : Obligations.OffsetGotoAddsV0 := by
  intro a s
  constructor
  · intro h
    have hpc : (BitVec.ofNat 16 (s.offsetTarget a)).toNat = s.offsetTarget a :=
      (BitVec.toNat_ofNat _ _).trans (Nat.mod_eq_of_lt (Nat.lt_trans h (by decide)))
    exact ⟨_, congrArg Host.Outcome.next (State.checkTop_of_lt h), hpc, PcOnly.jump s _⟩
  · intro h
    exact congrArg Host.Outcome.next (State.checkTop_of_ge h)

/-- Settles O15, by the bounds check on the address. -/
theorem gotoJumps : Obligations.GotoJumps := by
  intro a s
  constructor
  · intro h
    exact ⟨s.jump a, congrArg Host.Outcome.next (State.checkTop_of_lt h), s.jump_pc a, PcOnly.jump s a⟩
  · intro h
    exact congrArg Host.Outcome.next (State.checkTop_of_ge h)

/-- Settles O16, by the bounds check on the address. -/
theorem callPushesTheReturnAddress : Obligations.CallPushesTheReturnAddress := by
  intro a s
  constructor
  · intro h
    exact ⟨_, exec_call_of_lt h, rfl, rfl, rfl, fun _ => rfl⟩
  · intro h
    exact congrArg Host.Outcome.next (State.checkTop_of_ge h)

/-- Settles O17, by the two forms of the stack. -/
theorem returnPopsOrSpins : Obligations.ReturnPopsOrSpins :=
  fun _ => ⟨fun _ _ h => ⟨_, exec_ret_of_cons h, rfl, rfl, rfl, fun _ => rfl⟩, exec_ret_of_nil⟩

/-- Settles O20: each of the four is a conditional skip, on an equality or on its negation. -/
theorem registerSkipsAdvanceByFourOrTwo : Obligations.RegisterSkipsAdvanceByFourOrTwo :=
  ⟨fun _ _ _ => ⟨exists_pcOnly_of_exec_skipIf rfl beq_iff_eq, exists_pcOnly_of_exec_skipIf rfl bne_iff_ne⟩,
    fun _ _ _ => ⟨exists_pcOnly_of_exec_skipIf rfl beq_iff_eq, exists_pcOnly_of_exec_skipIf rfl bne_iff_ne⟩⟩

end Sys2Proof.Machine
end

section
/-! SUPPORT. The ALU (R130 to R143): what a register write and a result with its flag leave behind, the arithmetic of the 8-bit
results and of their flags, the byte Rand takes, and the statements about the ALU instructions. -/

namespace Sys2Proof.Machine

/-! ### one register written -/

/-- The register written is read back past the advance. -/
theorem State.getV_setV_advance_same (s : State) (x : Reg) (b : Byte) : (s.setV x b).advance.getV x = b := by
  simp

/-- Writing one register and advancing leaves the other registers, VF included, and everything outside V and `PC` as it was (R98). -/
theorem State.setV_advance_frame (s : State) (x : Reg) (b : Byte) :
    (∀ k, k ≠ x → (s.setV x b).advance.getV k = s.getV k) ∧ (s.setV x b).advance.pc = s.pc + 2 ∧
      RegsAndPcOnly s (s.setV x b).advance := by
  have hother : ∀ k, k ≠ x → (s.setV x b).advance.getV k = s.getV k := fun k hk => by simp [hk]
  exact ⟨hother, rfl, rfl, fun _ => rfl⟩

/-! ### a result and its flag written (R101) -/

/-- A result that does not go to VF is read back. -/
theorem State.getV_setResultAndFlag_result (s : State) {x : Reg} (hx : x ≠ 15) (r f : Byte) :
    (s.setResultAndFlag x r f).advance.getV x = r := by
  simp [vf, hx]

/-- VF holds the flag, also where the result went to VF. -/
theorem State.getV_setResultAndFlag_flag (s : State) (x : Reg) (r f : Byte) :
    (s.setResultAndFlag x r f).advance.getV 15 = f := by
  simp [vf]

/-- Nothing but the result's register, VF and `PC` changes. -/
theorem State.setResultAndFlag_advance_frame (s : State) (x : Reg) (r f : Byte) :
    (∀ k, k ≠ x → k ≠ 15 → (s.setResultAndFlag x r f).advance.getV k = s.getV k) ∧
      (s.setResultAndFlag x r f).advance.pc = s.pc + 2 ∧ RegsAndPcOnly s (s.setResultAndFlag x r f).advance := by
  have hother : ∀ k, k ≠ x → k ≠ 15 → (s.setResultAndFlag x r f).advance.getV k = s.getV k :=
    fun k hk hf => by simp [vf, hk, hf]
  exact ⟨hother, rfl, rfl, fun _ => rfl⟩

/-! ### results and flags as numbers -/

/-- `(a + b) mod 256` (R130). -/
theorem toNat_wrapAdd (a b : Byte) : (wrapAdd a b).toNat = (a.toNat + b.toNat) % 256 :=
  BitVec.toNat_ofNat _ _

/-- `a >> 1` (R139). -/
theorem toNat_halve (a : Byte) : (halve a).toNat = a.toNat / 2 :=
  (BitVec.toNat_ushiftRight a 1).trans (Nat.shiftRight_eq_div_pow _ 1)

/-- `(a << 1) mod 256` (R141). -/
theorem toNat_double (a : Byte) : (double a).toNat = 2 * a.toNat % 256 := by
  rw [double, BitVec.toNat_shiftLeft, Nat.shiftLeft_eq, Nat.mul_comm]

/-- The flag of Add (R137). -/
theorem flagByte_addCarry (a b : Byte) : flagByte (addCarry a b) = if a.toNat + b.toNat > 255 then 1 else 0 :=
  if_congr decide_eq_true_iff rfl rfl

/-- The flag of `a - b` (R138; the spec's D13, log 16). -/
theorem flagByte_noBorrow (a b : Byte) : flagByte (noBorrow a b) = if a.toNat < b.toNat then 0 else 1 := by
  by_cases h : a.toNat < b.toNat
  · simp [flagByte, noBorrow, h]
  · simp [flagByte, noBorrow, h, Nat.le_of_not_lt h]

/-- A bit of a byte, taken as a flag, is a digit of the number (R22). -/
theorem toNat_flagByte_getLsbD (a : Byte) (j : Nat) : (flagByte (a.getLsbD j)).toNat = a.toNat / 2 ^ j % 2 := by
  have hflag : ∀ c, (flagByte c).toNat = c.toNat := by decide
  rw [hflag]
  exact Nat.toNat_testBit _ _

/-- The flag of Shr (R139). -/
theorem toNat_flagByte_shiftedOutRight (a : Byte) : (flagByte (shiftedOutRight a)).toNat = a.toNat % 2 := by
  rw [shiftedOutRight, toNat_flagByte_getLsbD, pow_zero, Nat.div_one]

/-- The flag of Shl: bit 7 is the top bit (R141). -/
theorem toNat_flagByte_shiftedOutLeft (a : Byte) : (flagByte (shiftedOutLeft a)).toNat = a.toNat / 128 := by
  have := a.isLt
  rw [shiftedOutLeft, toNat_flagByte_getLsbD]
  omega

/-! ### the byte Rand takes (R143) -/

/-- A listed byte is the one supplied. -/
theorem State.nextByte_of_cons {s : State} {b : Byte} {bs : List Byte} (h : s.env.randBytes = b :: bs) : s.nextByte = b := by
  simp only [State.nextByte, h]

/-- A listed byte is taken from the list. -/
theorem State.consumeByte_env_of_cons {s : State} {b : Byte} {bs : List Byte} (h : s.env.randBytes = b :: bs) :
    s.consumeByte.env = { s.env with randBytes := bs } := by
  simp only [State.consumeByte, h]

/-- A masked byte has no bit that the mask has clear. -/
theorem getLsbD_and_of_mask_clear (b : Byte) {n : Byte} {j : Nat} (h : n.getLsbD j = false) : (b &&& n).getLsbD j = false := by
  rw [BitVec.getLsbD_and, h, Bool.and_false]

/-! ### the statements -/

/-- Settles O7: each writes one register. -/
theorem loadsWriteOneRegister : Obligations.LoadsWriteOneRegister :=
  ⟨fun x _ s => ⟨_, rfl, s.getV_setV_advance_same x _, s.setV_advance_frame x _⟩,
    fun x _ s => ⟨_, rfl, s.getV_setV_advance_same x _, s.setV_advance_frame x _⟩⟩

/-- Settles O8: one register is written, with the sum modulo 256. -/
theorem addConstWrapsWithoutFlag : Obligations.AddConstWrapsWithoutFlag := by
  intro x n s
  refine ⟨_, rfl, ?_, s.setV_advance_frame x _⟩
  rw [State.getV_setV_advance_same, toNat_wrapAdd]

/-- Settles O9: each writes one register, with the bitwise operation of the two operands. -/
theorem logicIsBitwiseWithoutFlag : Obligations.LogicIsBitwiseWithoutFlag := by
  intro x y s
  refine ⟨⟨_, rfl, fun j => ?_, s.setV_advance_frame x _⟩, ⟨_, rfl, fun j => ?_, s.setV_advance_frame x _⟩,
    ⟨_, rfl, fun j => ?_, s.setV_advance_frame x _⟩⟩
  · rw [State.getV_setV_advance_same, BitVec.getLsbD_or]
  · rw [State.getV_setV_advance_same, BitVec.getLsbD_and]
  · rw [State.getV_setV_advance_same, BitVec.getLsbD_xor]

/-- Settles O10: the sum and its carry are written, the carry last. -/
theorem addGivesSumAndCarry : Obligations.AddGivesSumAndCarry := by
  intro x y s
  refine ⟨_, rfl, fun hx => ?_, ?_, s.setResultAndFlag_advance_frame x _ _⟩
  · rw [State.getV_setResultAndFlag_result s hx, toNat_wrapAdd]
  · rw [State.getV_setResultAndFlag_flag, flagByte_addCarry]

/-- An instruction that writes `a - b` and its flag gives the difference modulo 256, and VF = 0 exactly on a borrow (R138, R140). -/
theorem exists_of_exec_difference {i : Instr} {s : State} {x : Reg} {a b : Byte}
    (he : exec i s = .next (s.setResultAndFlag x (wrapSub a b) (flagByte (noBorrow a b))).advance) :
    ∃ t, exec i s = .next t ∧
      (x ≠ 15 → (t.getV x).toNat = (a.toNat + 256 - b.toNat) % 256) ∧
      t.getV 15 = (if a.toNat < b.toNat then 0 else 1) ∧
      (∀ k, k ≠ x → k ≠ 15 → t.getV k = s.getV k) ∧ t.pc = s.pc + 2 ∧ RegsAndPcOnly s t := by
  refine ⟨_, he, fun hx => ?_, ?_, s.setResultAndFlag_advance_frame x _ _⟩
  · rw [State.getV_setResultAndFlag_result s hx, toNat_wrapSub]
  · rw [State.getV_setResultAndFlag_flag, flagByte_noBorrow]

/-- Settles O11: both write a difference and its flag, InverseSub with the operands exchanged. -/
theorem subtractionsGiveDifferenceAndBorrow : Obligations.SubtractionsGiveDifferenceAndBorrow :=
  fun _ _ _ => ⟨exists_of_exec_difference rfl, exists_of_exec_difference rfl⟩

/-- Settles O12: the shifted value and the bit shifted out are written, the bit last. -/
theorem shiftsGiveResultAndBitShiftedOut : Obligations.ShiftsGiveResultAndBitShiftedOut := by
  intro x s
  constructor
  · refine ⟨_, rfl, fun hx => ?_, ?_, s.setResultAndFlag_advance_frame x _ _⟩
    · rw [State.getV_setResultAndFlag_result s hx, toNat_halve]
    · rw [State.getV_setResultAndFlag_flag, toNat_flagByte_shiftedOutRight]
  · refine ⟨_, rfl, fun hx => ?_, ?_, s.setResultAndFlag_advance_frame x _ _⟩
    · rw [State.getV_setResultAndFlag_result s hx, toNat_double]
    · rw [State.getV_setResultAndFlag_flag, toNat_flagByte_shiftedOutLeft]

/-- Settles O13: Rand writes one register in the state that has taken the byte, and that state differs in the environment alone. -/
theorem randMasksTheSuppliedByte : Obligations.RandMasksTheSuppliedByte := by
  intro x n s
  have hx : (s.consumeByte.setV x (s.nextByte &&& n)).advance.getV x = s.nextByte &&& n := State.getV_setV_advance_same _ x _
  obtain ⟨hother, hpc, hframe, hmem⟩ := s.consumeByte.setV_advance_frame x (s.nextByte &&& n)
  refine ⟨_, rfl, fun j hj => ?_, fun b bs h => ⟨?_, State.consumeByte_env_of_cons h⟩, hx, fun k hk => ?_, ?_, ?_, fun a => ?_⟩
  · rw [hx]
    exact getLsbD_and_of_mask_clear _ hj
  · rw [hx, State.nextByte_of_cons h]
  · rw [hother k hk, State.getV_consumeByte]
  · rw [hpc, State.consumeByte_pc]
  · -- the fields of `s.consumeByte` that `hframe` keeps are those of `s`
    simpa using hframe
  · rw [hmem, State.consumeByte_mem]

end Sys2Proof.Machine
end

section
/-! SUPPORT. The index register and memory (R150 to R159): what an index write leaves unchanged, the address of a glyph, the digits of
BCD as they read back, what RegLoad does inside memory, and the statements about the six instructions. -/

namespace Sys2Proof.Machine

/-! ### the index register alone -/

/-- Loading `I` and advancing leaves everything but `I` and `PC` as it was, VF and memory included (R98, R150). -/
theorem State.setI_advance_frame (s : State) (w : Word) :
    (s.setI w).advance.pc = s.pc + 2 ∧
      (s.setI w).advance = { s with i := (s.setI w).advance.i, pc := (s.setI w).advance.pc } ∧
      ∀ a, (s.setI w).advance.mem.read a = s.mem.read a :=
  ⟨rfl, rfl, fun _ => rfl⟩

/-- The address of a glyph is not changed by the width of `I`: wherever the font lies, it ends below 0x200 (R53, R153). -/
theorem toNat_glyphAddr (c : Byte) : (glyphAddr c).toNat = fontBase + 5 * c.toNat := by
  have hc := c.isLt
  have hbase : fontBase + 80 ≤ 0x200 := fontBase_le
  have hfit : fontBase + Config.glyphBytes * c.toNat < 2 ^ 16 := by simp only [Config.glyphBytes]; omega
  exact (BitVec.toNat_ofNat _ _).trans (Nat.mod_eq_of_lt hfit)

/-! ### BCD inside memory -/

/-- Inside memory BCD stores the three digits at `I` and advances (R155). -/
theorem exec_bcd_of_lt {x : Reg} {s : State} (h : s.i.toNat + 2 < Config.memSize) :
    exec (.bcd x) s = .next { s with mem := s.mem.storeBytes s.i.toNat (decimalDigits (s.getV x)) }.advance :=
  congrArg Host.Outcome.next (State.checkTop_of_lt h)

/-- The digits stored at `a` read back in order, hundreds first (R60, R155). -/
theorem Memory.toNat_read_storeBytes_decimalDigits {m : Memory} (hm : m.wf = true) {a : Nat} (ha : a + 2 < Config.memSize)
    (b : Byte) :
    ((m.storeBytes a (decimalDigits b)).read a).toNat = b.toNat / 100 ∧
      ((m.storeBytes a (decimalDigits b)).read (a + 1)).toNat = b.toNat / 10 % 10 ∧
      ((m.storeBytes a (decimalDigits b)).read (a + 2)).toNat = b.toNat % 10 := by
  have hdigit (k : Nat) (hk : k < 3) : ((m.storeBytes a (decimalDigits b)).read (a + k)).toNat =
      [b.toNat / 100, b.toNat / 10 % 10, b.toNat % 10][k] :=
    calc _ = ((decimalDigits b)[k]'hk).toNat := congrArg BitVec.toNat (Memory.read_storeBytes_inside hm hk ha)
      _ = ((decimalDigits b).map BitVec.toNat)[k]'hk := (List.getElem_map _).symm
      _ = [b.toNat / 100, b.toNat / 10 % 10, b.toNat % 10][k] := getElem_congr_coll (toNat_decimalDigits b)
  exact ⟨hdigit 0 (by decide), hdigit 1 (by decide), hdigit 2 (by decide)⟩

/-! ### RegLoad inside memory -/

/-- Inside memory a RegLoad loads the low registers from `I` and advances (R158). -/
theorem exec_regLoad_of_lt {x : Reg} {s : State} (h : s.i.toNat + x.val < Config.memSize) :
    exec (.regLoad x) s = .next { s with v := s.loadedRegs x }.advance :=
  congrArg Host.Outcome.next (State.checkTop_of_lt h)

/-! ### the statements -/

/-- Settles O21: both load `I` alone, AddIndex with the sum modulo 65536. -/
theorem indexWritesAreUnchecked : Obligations.IndexWritesAreUnchecked :=
  ⟨fun a s => ⟨_, rfl, rfl, s.setI_advance_frame a⟩,
    fun _ s => ⟨_, rfl, BitVec.toNat_ofNat _ _, s.setI_advance_frame _⟩⟩

/-- Settles O22, by the test on the register's whole value. -/
theorem setIndexCharPointsAtTheGlyph : Obligations.SetIndexCharPointsAtTheGlyph := by
  intro x s
  constructor
  · intro h
    have hdigit : hexDigit (s.getV x) = true := decide_eq_true h
    exact ⟨_, congrArg Host.Outcome.next (if_pos hdigit), toNat_glyphAddr _, s.setI_advance_frame _⟩
  · intro h
    have hdigit : ¬ hexDigit (s.getV x) = true := fun hd => Nat.not_le_of_lt h (of_decide_eq_true hd)
    exact congrArg Host.Outcome.next (if_neg hdigit)

/-- Settles O23, by the bounds check on `I + 2`: a value is recombined from its digits, and the three stored bytes are the only ones
that change. -/
theorem bcdStoresThreeDigits : Obligations.BcdStoresThreeDigits := by
  intro x s
  constructor
  · intro h
    refine ⟨_, exec_bcd_of_lt h, fun hm => ?_, fun a ha => ?_, rfl, rfl⟩
    · obtain ⟨h0, h1, h2⟩ := Memory.toNat_read_storeBytes_decimalDigits hm h (s.getV x)
      refine ⟨h0, h1, h2, ?_⟩
      simp only [State.advance_mem, h0, h1, h2]
      omega
    · exact Memory.read_storeBytes_of_outside ha
  · intro h
    exact congrArg Host.Outcome.next (State.checkTop_of_ge h)

/-- Settles O24, by the bounds check on `I + X`: the `X + 1` stored bytes are the only ones that change. -/
theorem regDumpStoresTheLowRegisters : Obligations.RegDumpStoresTheLowRegisters := by
  intro x s
  constructor
  · intro h
    refine ⟨_, exec_regDump_of_lt h, fun hm k hk => State.read_storeBytes_lowRegs hm hk h, fun a ha => ?_, rfl, rfl⟩
    refine Memory.read_storeBytes_of_outside ?_
    rwa [s.lowRegs_length]
  · intro h
    exact congrArg Host.Outcome.next (State.checkTop_of_ge h)

/-- Settles O25, by the bounds check on `I + X`: a register is loaded exactly if its number is at most X. -/
theorem regLoadLoadsTheLowRegisters : Obligations.RegLoadLoadsTheLowRegisters := by
  intro x s
  constructor
  · intro h
    exact ⟨_, exec_regLoad_of_lt h, fun k hk => (s.loadedRegs_get x k).trans (if_pos hk),
      fun k hk => (s.loadedRegs_get x k).trans (if_neg (Nat.not_le_of_lt hk)), rfl, rfl, fun _ => rfl⟩
  · intro h
    exact congrArg Host.Outcome.next (State.checkTop_of_ge h)

/-- Settles O26: register by register, what RegLoad reads is what RegDump stored (O24, O25). -/
theorem dumpThenLoadRestoresAllRegisters : Obligations.DumpThenLoadRestoresAllRegisters := by
  intro s t u hm hin hdump hi hbytes
  obtain ⟨t', hdump', hstored, -⟩ := (regDumpStoresTheLowRegisters 15 s).1 hin
  obtain rfl := Host.Outcome.next.inj (hdump'.symm.trans hdump)
  obtain ⟨w, hload, hloaded, -⟩ := (regLoadLoadsTheLowRegisters 15 u).1 (by rwa [hi])
  refine ⟨w, hload, State.v_ext fun k => ?_⟩
  have hk : k.val ≤ 15 := Nat.le_of_lt_succ k.isLt
  calc w.getV k = u.mem.read (u.i.toNat + k.val) := hloaded k hk
    _ = t'.mem.read (s.i.toNat + k.val) := by rw [hi, hbytes k.val hk]
    _ = s.getV k := hstored hm k hk

end Sys2Proof.Machine
end

section
/-! SUPPORT. Timers and keys (R170 to R177): the test of a key number, the new keys of a poll and what a poll leaves unchanged, and the
statements about the six instructions and the poll of WaitKey. -/

namespace Sys2Proof.Machine

/-! ### key numbers (R170) -/

/-- A register value of at most 15 is a key or glyph number. -/
theorem hexDigit_of_le {b : Byte} (h : b.toNat ≤ 15) : hexDigit b = true := decide_eq_true h

/-- A register value above 15 is none, as it is not masked. -/
theorem not_hexDigit_of_lt {b : Byte} (h : 15 < b.toNat) : ¬ hexDigit b = true :=
  fun hd => Nat.not_le_of_lt h (of_decide_eq_true hd)

/-! ### the outcomes of a poll (R175) -/

/-- With no key that is new since entry, the search for one finds none. -/
theorem State.newKey_eq_none {s : State} {now : Keys} (h : ∀ k, ¬ s.NewKey now k) : newKey s.waitRef now = none :=
  newKey_eq_none_iff.mpr fun k hk hnew => h k ⟨hk, hnew⟩

/-- The lowest key that is new since entry is the one found. -/
theorem State.newKey_eq_some {s : State} {now : Keys} {k : Nat} (hk : s.NewKey now k) (hmin : ∀ j, j < k → ¬ s.NewKey now j) :
    newKey s.waitRef now = some k :=
  newKey_eq_some_iff.mpr ⟨hk, fun j hj hnew => hmin j hj ⟨Nat.lt_trans hj hk.1, hnew⟩⟩

/-- A poll without a new key has asked for the keys and done nothing else. -/
theorem State.poll_of_none {s : State} (h : newKey s.waitRef s.nextKeys = none) : s.poll = s.consumeKeys := by
  obtain ⟨-, e⟩ | ⟨k, hk, -⟩ := s.poll_cases
  · exact e
  · exact absurd (h.symm.trans hk) (Option.some_ne_none k).symm

/-- The state in which a poll that found key `k` ends, before the flush of the suspended cycle. -/
def State.resumedWith (s : State) (k : Nat) : State :=
  { (s.consumeKeys.setV s.waitX (BitVec.ofNat 8 k)).advance with status := .running }

/-- A poll that found key `k` completes the WaitKey with it, and the flush follows. -/
theorem State.poll_of_some {s : State} {k : Nat} (h : newKey s.waitRef s.nextKeys = some k) :
    s.poll = (s.resumedWith k).flush := by
  obtain ⟨hn, -⟩ | ⟨j, hj, e⟩ := s.poll_cases
  · exact absurd (hn.symm.trans h) (Option.some_ne_none k).symm
  · obtain rfl := Option.some.inj (hj.symm.trans h)
    exact e

/-- The latched register then holds the key's number, and every other register is as before. -/
theorem State.getV_resumedWith (s : State) (k : Nat) (r : Reg) :
    (s.resumedWith k).getV r = if r = s.waitX then BitVec.ofNat 8 k else s.getV r :=
  (s.consumeKeys.getV_setV s.waitX r _).trans (by rw [State.getV_consumeKeys])

/-- Completing a WaitKey writes V, `PC`, the status and the environment alone. -/
theorem State.resumedWith_frame (s : State) (k : Nat) :
    s.resumedWith k = { s with v := (s.resumedWith k).v, pc := s.pc + 2, status := .running, env := s.consumeKeys.env } := by
  simp [State.resumedWith, State.advance, State.jump, State.setV]

/-- Every poll leaves all but V, `PC`, the status and the environment as it was (R221). -/
theorem State.poll_frame (s : State) :
    s.poll = { s with v := s.poll.v, pc := s.poll.pc, status := s.poll.status, env := s.poll.env } := by
  cases h : newKey s.waitRef s.nextKeys with
  | none => simpa [State.poll_of_none h] using s.consumeKeys_eq
  | some k => rw [State.poll_of_some h, State.flush_eq, s.resumedWith_frame]

/-- A poll after which the WaitKey is still pending has left `PC` as it was. -/
theorem State.poll_pc_of_waiting {s : State} (h : s.poll.status = .waiting) : s.poll.pc = s.pc := by
  cases hk : newKey s.waitRef s.nextKeys with
  | none => rw [State.poll_of_none hk, State.consumeKeys_pc]
  | some k => simp [State.poll_of_some hk, State.resumedWith] at h

/-! ### the statements -/

/-- Settles O30, by the search for a new key: it finds none, or the lowest. -/
theorem pollCompletesOnTheLowestNewKey : Obligations.PollCompletesOnTheLowestNewKey := by
  intro s hs
  constructor
  · intro hnone
    have hpoll : s.poll = s.consumeKeys := State.poll_of_none (State.newKey_eq_none hnone)
    exact ⟨by rw [step_of_waiting hs, hpoll, ← s.consumeKeys_eq], s.consumeKeys_calls⟩
  · intro k hk hmin
    have hpoll : s.poll = (s.resumedWith k).flush := State.poll_of_some (State.newKey_eq_some hk hmin)
    have hlt : k < 2 ^ 8 := Nat.lt_trans hk.1 (by decide)
    refine ⟨s.poll, step_of_waiting hs, ?_, fun r hr => ?_, ?_, ?_, ?_, s.poll_frame⟩
    · rw [hpoll, State.getV_flush, s.getV_resumedWith, if_pos rfl, BitVec.toNat_ofNat, Nat.mod_eq_of_lt hlt]
    · rw [hpoll, State.getV_flush, s.getV_resumedWith, if_neg hr]
    · rw [hpoll, State.flush_pc, s.resumedWith_frame]
    · rw [hpoll, State.flush_status, s.resumedWith_frame]
    · rw [hpoll, State.flush_calls, s.resumedWith_frame, State.consumeKeys_calls]

/-- Settles O29, by the test on the register's whole value; up to 15 both are conditional skips. -/
theorem keySkipsReadTheSnapshot : Obligations.KeySkipsReadTheSnapshot := by
  intro x s
  constructor
  · intro h
    have hdigit := hexDigit_of_le h
    exact ⟨exists_pcOnly_of_exec_skipIf (congrArg Host.Outcome.next (if_pos hdigit)) Iff.rfl,
      exists_pcOnly_of_exec_skipIf (congrArg Host.Outcome.next (if_pos hdigit)) (Bool.not_eq_true' _).to_iff⟩
  · intro h
    have hdigit := not_hexDigit_of_lt h
    exact ⟨congrArg Host.Outcome.next (if_neg hdigit), congrArg Host.Outcome.next (if_neg hdigit)⟩

/-- Settles O27: GetDelay writes one register, SetDelay and SetSound one timer. -/
theorem timerInstructionsMoveOneByte : Obligations.TimerInstructionsMoveOneByte :=
  fun x s => ⟨⟨_, rfl, s.getV_setV_advance_same x _, s.setV_advance_frame x _⟩,
    ⟨_, rfl, rfl, fun _ => rfl⟩, ⟨_, rfl, rfl, fun _ => rfl⟩⟩

/-- Settles O28: the instruction only latches and suspends, and the step that follows is a poll, which leaves the timers alone. -/
theorem waitKeySuspendsItsCycle : Obligations.WaitKeySuspendsItsCycle := by
  intro x s
  refine ⟨_, rfl, rfl, rfl, rfl, rfl, fun _ => rfl, _, step_of_waiting rfl, ?_, ?_, State.poll_pc_of_waiting⟩
  · rw [State.poll_frame]
  · rw [State.poll_frame]

end Sys2Proof.Machine
end

section
/-! SUPPORT. The display (R190 to R195): the first position of a sprite that is off the bitmap, the outcome of each check of Draw, the
sprite's bits and what its blit does with them, and the statements about ClearScreen and Draw. -/

namespace Sys2Proof.Machine

/-! ### the first position off the bitmap (R194) -/

/-- The first position off the bitmap in the sprite row at `(x0, y0)`: its origin, or the one in column 64. -/
def firstOffInRow (x0 y0 : Nat) : Option (Nat × Nat) :=
  if 32 ≤ y0 ∨ 64 ≤ x0 then some (x0, y0) else if 56 < x0 then some (64, y0) else none

/-- It is the one that the scan of the row's eight columns finds. -/
theorem find?_offBitmap_row (x0 y0 : Nat) :
    ((List.range Config.spriteWidth).map fun c => (x0 + c, y0)).find? offBitmap = firstOffInRow x0 y0 := by
  have hoff (c : Nat) : (offBitmap ∘ fun c => (x0 + c, y0)) c = decide (64 ≤ x0 + c ∨ 32 ≤ y0) := rfl
  rw [List.find?_map, firstOffInRow]
  split
  next horigin =>
    refine Option.map_eq_some_iff.mpr ⟨0, List.find?_range_eq_some.mpr ⟨?_, by decide, fun j hj => ?_⟩, rfl⟩
    · rw [hoff]; exact decide_eq_true horigin.symm
    · exact absurd hj (Nat.not_lt_zero j)
  next horigin =>
    split
    next hcol =>
      refine Option.map_eq_some_iff.mpr ⟨64 - x0, List.find?_range_eq_some.mpr ⟨?_, ?_, fun j hj => ?_⟩, ?_⟩
      · rw [hoff]; exact decide_eq_true (by omega)
      · simp only [List.mem_range, Config.spriteWidth]; omega
      · rw [hoff, decide_eq_false (by omega)]; rfl
      · rw [Nat.add_sub_cancel' (by omega)]
    next hcol =>
      refine Option.map_eq_none_iff.mpr (List.find?_range_eq_none.mpr fun j hj => ?_)
      rw [hoff, decide_eq_false (by simp only [Config.spriteWidth] at hj; omega)]; rfl

/-- A sprite is scanned row by row: its top row, and then the rest as a sprite one row lower. -/
theorem firstOff_succ (x0 y0 h : Nat) :
    firstOff x0 y0 (h + 1) = (firstOffInRow x0 y0).or (firstOff x0 (y0 + 1) h) := by
  have hrows : spritePositions x0 y0 (h + 1) =
      ((List.range Config.spriteWidth).map fun c => (x0 + c, y0)) ++ spritePositions x0 (y0 + 1) h := by
    simp only [spritePositions, List.range_succ_eq_map, List.flatMap_cons, List.flatMap_map]
    simp only [Nat.add_assoc, Nat.add_comm 1, Nat.succ_eq_add_one, Nat.add_zero]
  rw [firstOff, hrows, List.find?_append, find?_offBitmap_row, firstOff]

/-- A sprite whose columns fit and whose rows begin on the bitmap and run past its bottom leaves it in row 32. -/
theorem firstOff_of_bottom {x0 y0 h : Nat} (hx : x0 ≤ 56) (hy : y0 ≤ 32) (hbot : 32 < y0 + h) :
    firstOff x0 y0 h = some (x0, 32) := by
  induction h generalizing y0 with
  | zero => omega
  | succ h ih =>
    rw [firstOff_succ, firstOffInRow]
    by_cases hlast : y0 = 32
    · subst hlast
      simp
    · rw [if_neg (by omega), if_neg (by omega), Option.none_or]
      exact ih (by omega) (by omega)

/-- The first offending position of a sprite that leaves the bitmap: its origin, or column 64 of its first row, or row 32 of its
first column. -/
theorem firstOff_of_outside {x0 y0 h : Nat} (h0 : h ≠ 0) (hout : 56 < x0 ∨ 32 < y0 + h) :
    firstOff x0 y0 h =
      some (if 32 ≤ y0 ∨ 64 ≤ x0 then (x0, y0) else if 56 < x0 then (64, y0) else (x0, 32)) := by
  obtain ⟨n, rfl⟩ := Nat.exists_eq_succ_of_ne_zero h0
  by_cases horigin : 32 ≤ y0 ∨ 64 ≤ x0
  · rw [firstOff_succ, firstOffInRow, if_pos horigin, if_pos horigin, Option.some_or]
  · rw [if_neg horigin]
    by_cases hcol : 56 < x0
    · rw [firstOff_succ, firstOffInRow, if_neg horigin, if_pos hcol, if_pos hcol, Option.some_or]
    · rw [if_neg hcol]
      exact firstOff_of_bottom (by omega) (by omega) (by omega)

/-! ### the two checks of Draw (R194) -/

section
variable {x y : Reg} {h : Fin 16} {s : State}

/-- With its last byte outside memory a Draw faults on that address. -/
theorem exec_draw_of_address_outside (h0 : h.val ≠ 0) (ha : Config.memSize ≤ s.effAddr (h.val - 1)) :
    exec (.draw x y h) s = .next (s.raise (.invalidAddress (s.effAddr (h.val - 1)) "Draw")) :=
  congrArg Host.Outcome.next ((if_neg h0).trans (State.checkTop_of_ge ha))

/-- With no bytes, or all of them inside memory, a Draw goes on to its second check. -/
theorem exec_draw_of_address_inside (ha : h.val = 0 ∨ s.effAddr (h.val - 1) < Config.memSize) :
    exec (.draw x y h) s = .next (s.drawChecked (s.getV x).toNat (s.getV y).toNat h.val) := by
  simp only [exec, execDraw]
  by_cases h0 : h.val = 0
  · rw [if_pos h0, h0]
  · rw [if_neg h0, State.checkTop_of_lt (ha.resolve_left h0)]

/-- A rectangle on the bitmap is drawn. -/
theorem State.drawChecked_of_none {x0 y0 n : Nat} (hoff : firstOff x0 y0 n = none) :
    s.drawChecked x0 y0 n = (s.drawSprite x0 y0 n).advance := by
  rw [State.drawChecked, hoff]

/-- A rectangle that leaves the bitmap faults at its first position outside. -/
theorem State.drawChecked_of_some {x0 y0 n : Nat} {p : Nat × Nat} (hoff : firstOff x0 y0 n = some p) :
    s.drawChecked x0 y0 n = s.raise (.pixelOutOfBounds p.1 p.2) := by
  rw [State.drawChecked, hoff]

end

/-- The bytes of the Draw are inside memory and its rectangle is on the bitmap; with height 0 there is neither. -/
def State.SpriteInside (s : State) (x y : Reg) (h : Fin 16) : Prop :=
  h.val = 0 ∨ (s.i.toNat + h.val ≤ 4096 ∧ (s.getV x).toNat + 8 ≤ 64 ∧ (s.getV y).toNat + h.val ≤ 32)

/-- A Draw whose bytes and rectangle are inside draws. -/
theorem exec_draw_of_spriteInside {x y : Reg} {h : Fin 16} {s : State} (hin : s.SpriteInside x y h) :
    exec (.draw x y h) s = .next (s.drawSprite (s.getV x).toNat (s.getV y).toNat h.val).advance := by
  have haddr : h.val = 0 ∨ s.effAddr (h.val - 1) < Config.memSize := by
    simp only [State.SpriteInside, State.effAddr, Config.memSize] at hin ⊢
    omega
  have hoff : firstOff (s.getV x).toNat (s.getV y).toNat h.val = none := firstOff_none_iff.mpr (hin.imp_right And.right)
  rw [exec_draw_of_address_inside haddr, State.drawChecked_of_none hoff]

/-! ### the sprite's bits and its blit (R193) -/

/-- A flag byte is 1 exactly if the flag is set (R22). -/
theorem flagByte_eq_one_iff (c : Bool) : flagByte c = 1 ↔ c = true := by
  cases c <;> decide

/-- Column `c` of row `r` is bit `7 - c` of the byte at `I + r`. -/
theorem State.spriteBit_inside (s : State) (x0 y0 : Nat) {h r c : Nat} (hr : r < h) (hc : c < 8) :
    spriteBit (s.spriteBytes h) x0 y0 (x0 + c) (y0 + r) = (s.mem.read (s.i.toNat + r)).getLsbD (7 - c) := by
  rw [spriteBit, decide_eq_true ⟨by omega, by simp only [Config.spriteWidth]; omega, by omega⟩, Bool.true_and,
    Nat.add_sub_cancel_left, Nat.add_sub_cancel_left, s.spriteBytes_getElem hr]
  rfl

/-- Outside its rectangle a sprite has no 1 bit. -/
theorem spriteBit_outside {rows : List Byte} {x0 y0 x y : Nat}
    (hout : x < x0 ∨ x0 + 8 ≤ x ∨ y < y0 ∨ y0 + rows.length ≤ y) : spriteBit rows x0 y0 x y = false := by
  by_cases hbelow : y0 + rows.length ≤ y
  · rw [spriteBit, List.getElem?_eq_none (by omega)]
    exact (congrArg _ BitVec.getLsbD_zero).trans (Bool.and_false _)
  · rw [spriteBit, decide_eq_false (by simp only [Config.spriteWidth]; omega), Bool.false_and]

/-- The blit of a sprite that fits inverts the pixels under its 1 bits, notes whether one of them was set, and whether there is one. -/
theorem State.blit_spec (s : State) {x0 y0 h : Nat} (hfit : h = 0 ∨ (x0 + 8 ≤ 64 ∧ y0 + h ≤ 32)) :
    (∀ x y, (s.blit x0 y0 h).fb.px x y = (s.fb.px x y ^^ spriteBit (s.spriteBytes h) x0 y0 x y)) ∧
    ((s.blit x0 y0 h).collision = true ↔ ∃ r c, r < h ∧ c < 8 ∧
      (s.mem.read (s.i.toNat + r)).getLsbD (7 - c) = true ∧ s.fb.px (x0 + c) (y0 + r) = true) ∧
    ((s.blit x0 y0 h).changed = true ↔ ∃ r c, r < h ∧ c < 8 ∧
      (s.mem.read (s.i.toNat + r)).getLsbD (7 - c) = true) := by
  obtain rfl | ⟨hx, hy⟩ := hfit
  · simp [State.blit, State.spriteBytes, blitRows, spriteBit]
  · obtain ⟨hpx, hcoll, hchg⟩ := blitRows_spec hx (s.spriteBytes h) ⟨s.fb, false, false⟩ (y0 := y0)
      (by rwa [s.spriteBytes_length])
    have hbyte {r : Nat} (hr : r < h) : ((s.spriteBytes h)[r]?).getD 0 = s.mem.read (s.i.toNat + r) :=
      s.spriteBytes_getElem hr
    simp only [Bool.false_eq_true, false_or, s.spriteBytes_length] at hcoll hchg
    refine ⟨hpx, hcoll.trans ?_, hchg.trans ?_⟩
    · exact exists₂_congr fun r c => and_congr_right fun hr => by rw [hbyte hr]
    · exact exists₂_congr fun r c => and_congr_right fun hr => by rw [hbyte hr]

/-! ### the statements -/

/-- Settles O34: the bitmap is replaced by the clear one and the flag set, in every state. -/
theorem clearScreenClears : Obligations.ClearScreenClears :=
  fun _ => ⟨_, rfl, fun x y _ _ => Frame.px_clear x y, rfl, rfl, rfl, fun _ => rfl⟩

/-- Settles O35, by what the blit of a sprite that fits does. -/
theorem drawInvertsThePixelsUnderTheSprite : Obligations.DrawInvertsThePixelsUnderTheSprite := by
  intro x y h s hin
  obtain ⟨hpx, hcoll, hchg⟩ := s.blit_spec (hin.imp_right And.right)
  have hvf : (s.drawSprite (s.getV x).toNat (s.getV y).toNat h.val).advance.getV 15 =
      flagByte (s.blit (s.getV x).toNat (s.getV y).toNat h.val).collision :=
    (State.getV_advance _ 15).trans (s.drawSprite_vf _ _ _)
  refine ⟨_, exec_draw_of_spriteInside hin, fun r c hr hc => ?_, fun px py hout => ?_, ?_, ?_, ?_, fun k hk => ?_, rfl, rfl,
    fun _ => rfl⟩
  · rw [State.advance_fb, s.drawSprite_fb, hpx, s.spriteBit_inside _ _ hr hc]
  · rw [State.advance_fb, s.drawSprite_fb, hpx, spriteBit_outside (by rwa [s.spriteBytes_length]), Bool.xor_false]
  · rw [hvf]
    exact flagByte_zero_or_one _
  · rw [hvf, flagByte_eq_one_iff, hcoll]
  · rw [State.advance_redraw, s.drawSprite_redraw, Bool.or_eq_true, hchg]
  · rw [State.getV_advance, s.getV_drawSprite _ _ _ hk]

/-- Settles O36, by the two checks in their order and the first position off the bitmap. -/
theorem drawFaultsBeforeItDraws : Obligations.DrawFaultsBeforeItDraws := by
  intro x y h s h0
  have hlast : s.effAddr (h.val - 1) = s.i.toNat + h.val - 1 := (Nat.add_sub_assoc (Nat.one_le_iff_ne_zero.mpr h0) _).symm
  constructor
  · intro ha
    rw [← hlast] at ha ⊢
    exact exec_draw_of_address_outside h0 ha
  · intro ha hout px py hp
    rw [← hlast] at ha
    have hoff := firstOff_of_outside h0 hout
    rw [← hp] at hoff
    rw [exec_draw_of_address_inside (.inr ha), State.drawChecked_of_some hoff]
    rfl

/-- A Draw that does not fault had its bytes and its rectangle inside, as it faults otherwise (O36). -/
theorem spriteInside_of_exec_draw {x y : Reg} {h : Fin 16} {s t : State} (he : exec (.draw x y h) s = .next t)
    (ht : t.status.isFaulted = false) : s.SpriteInside x y h := by
  by_contra hin
  rw [State.SpriteInside, not_or] at hin
  obtain ⟨h0, hin⟩ := hin
  obtain ⟨haddr, hpos⟩ := drawFaultsBeforeItDraws x y h s h0
  by_cases ha : 4096 ≤ s.i.toNat + h.val - 1
  · obtain rfl := Host.Outcome.next.inj ((haddr ha).symm.trans he)
    exact Bool.noConfusion ht
  · obtain rfl := Host.Outcome.next.inj ((hpos (by omega) (by omega) _ _ rfl).symm.trans he)
    exact Bool.noConfusion ht

/-- Settles O37: O35 holds of both Draws, with the same bytes and the same rectangle. -/
theorem drawingTwiceRestoresTheBitmap : Obligations.DrawingTwiceRestoresTheBitmap := by
  intro x y h s t hx hy he ht
  have hin := spriteInside_of_exec_draw he ht
  obtain ⟨t', he', hpx, hrest, -, -, -, hv, -, hframe, -⟩ := drawInvertsThePixelsUnderTheSprite x y h s hin
  obtain rfl := Host.Outcome.next.inj (he'.symm.trans he)
  have hi : t'.i = s.i := by rw [hframe]
  have hmem : t'.mem = s.mem := by rw [hframe]
  have hin' : t'.SpriteInside x y h := by rwa [State.SpriteInside, hi, hv x hx, hv y hy]
  obtain ⟨u, hu, hpx', hrest', -, hvf, -⟩ := drawInvertsThePixelsUnderTheSprite x y h t' hin'
  rw [hi, hmem, hv x hx, hv y hy] at hpx' hvf
  rw [hv x hx, hv y hy] at hrest'
  refine ⟨u, hu, Frame.ext_px fun px py => ?_, hvf.trans ?_⟩
  · by_cases hout : px < (s.getV x).toNat ∨ (s.getV x).toNat + 8 ≤ px ∨ py < (s.getV y).toNat ∨ (s.getV y).toNat + h.val ≤ py
    · rw [hrest' px py hout, hrest px py hout]
    · obtain ⟨c, rfl⟩ := Nat.exists_eq_add_of_le (show (s.getV x).toNat ≤ px by omega)
      obtain ⟨r, rfl⟩ := Nat.exists_eq_add_of_le (show (s.getV y).toNat ≤ py by omega)
      rw [hpx' r c (by omega) (by omega), hpx r c (by omega) (by omega), Bool.xor_assoc, Bool.xor_self, Bool.xor_false]
  · refine exists₂_congr fun r c => and_congr_right fun hr => and_congr_right fun hc => and_congr_right fun hbit => ?_
    -- under a 1 bit the first Draw has inverted the pixel
    rw [hpx r c hr hc, hbit, Bool.xor_true, Bool.not_eq_true']

end Sys2Proof.Machine
end

section
/-! SUPPORT. Exceptional events (R200 to R221): the table of which instruction raises which fault, what a poll and a tick do to the
state and to the record of host calls, and the statements about faults, the wait state and the Timer Driver. -/

namespace Sys2Proof.Machine

/-! ### which instruction faults, and how (R200 to R205) -/

/-- R200's table: the instruction may raise the fault, with the payload that R202 to R205 give it. -/
inductive ListedFault : Instr → FaultKind → Prop
  | address (i : Instr) (a : Nat) (ha : 4096 ≤ a)
      (hi : i.mnemonic ∈ ["BCD", "RegDump", "RegLoad", "Draw", "OffsetGoto"] := by simp [Instr.mnemonic]) :
      ListedFault i (.invalidAddress a i.mnemonic)
  | character (x : Reg) (b : Byte) (hb : 15 < b.toNat) : ListedFault (.setIndexChar x) (.unknownCharacter b)
  | key (i : Instr) (b : Byte) (hb : 15 < b.toNat) (hi : i.mnemonic ∈ ["SkipKey", "SkipNotKey"] := by simp [Instr.mnemonic]) :
      ListedFault i (.unknownKey b i.mnemonic)
  | pixel (x y : Reg) (h : Fin 16) (px py : Nat) (hp : 64 ≤ px ∨ 32 ≤ py) : ListedFault (.draw x y h) (.pixelOutOfBounds px py)

/-- If `t` is Faulted, then with a fault that the table lists for the instruction. -/
def FaultsAsListed (i : Instr) (t : State) : Prop := ∀ k, t.status = .faulted k → ListedFault i k

/-- A state that is not Faulted has no fault to list. -/
theorem FaultsAsListed.of_not_faulted {i : Instr} {t : State} (h : t.status.isFaulted = false) : FaultsAsListed i t := by
  intro k hk
  simp [hk, Status.isFaulted] at h

/-- Fault entry with a listed fault. -/
theorem FaultsAsListed.raise {i : Instr} {k : FaultKind} (h : ListedFault i k) (s : State) : FaultsAsListed i (s.raise k) := by
  intro j hj
  rwa [← Status.faulted.inj hj]

/-- The bounds check of an instruction that the table lists for InvalidAddress. -/
theorem FaultsAsListed.checkTop {i : Instr} {ok : State} (s : State) (top : Nat) (hok : FaultsAsListed i ok)
    (hi : i.mnemonic ∈ ["BCD", "RegDump", "RegLoad", "Draw", "OffsetGoto"] := by simp [Instr.mnemonic]) :
    FaultsAsListed i (s.checkTop top i.mnemonic ok) := by
  obtain ⟨-, e⟩ | ⟨hge, e⟩ := State.checkTop_cases s ok top i.mnemonic
  · rwa [e]
  · rw [e]
    exact .raise (.address i top hge hi) s

/-- The test that a register holds a key or glyph number (R203, R204): the fault behind it need be listed above 15 alone. -/
theorem FaultsAsListed.ite_hexDigit {i : Instr} {ok : State} {b : Byte} {k : FaultKind} (s : State) (hok : FaultsAsListed i ok)
    (hk : 15 < b.toNat → ListedFault i k) : FaultsAsListed i (if hexDigit b then ok else s.raise k) := by
  by_cases hb : b.toNat ≤ 15
  · rwa [if_pos (hexDigit_of_le hb)]
  · have hlt : 15 < b.toNat := Nat.lt_of_not_le hb
    rw [if_neg (not_hexDigit_of_lt hlt)]
    exact .raise (hk hlt) s

/-- All three outcomes of Draw: drawn, or one of its two listed faults (R193, R194). -/
theorem FaultsAsListed.of_exec_draw {x y : Reg} {h : Fin 16} {s t : State} (hs : s.status.isFaulted = false)
    (he : exec (.draw x y h) s = .next t) : FaultsAsListed (.draw x y h) t := by
  obtain e | ⟨a, ha, e⟩ | ⟨p, hp, e⟩ := exec_draw_cases x y h s
  · obtain rfl := Host.Outcome.next.inj (e.symm.trans he)
    exact .of_not_faulted hs
  · obtain rfl := Host.Outcome.next.inj (e.symm.trans he)
    exact .raise (.address (.draw x y h) a ha) s
  · obtain rfl := Host.Outcome.next.inj (e.symm.trans he)
    exact .raise (.pixel x y h p.1 p.2 hp) s

/-- Step 5 faults as the table says: eight instructions have a check that can fail, those of a well-formed Goto and Call pass, and
the others check nothing. -/
theorem FaultsAsListed.of_exec {i : Instr} {s t : State} (hw : i.wellFormed = true) (hs : s.status.isFaulted = false)
    (he : exec i s = .next t) : FaultsAsListed i t := by
  cases i
  case draw x y h => exact .of_exec_draw hs he
  all_goals obtain rfl := Host.Outcome.next.inj he
  case goto | call =>
    rw [State.checkTop_of_lt (of_decide_eq_true hw)]
    exact .of_not_faulted hs
  case offsetGoto | bcd | regDump | regLoad => exact .checkTop s _ (.of_not_faulted hs)
  case setIndexChar x => exact .ite_hexDigit s (.of_not_faulted hs) (.character x _)
  case skipKey x => exact .ite_hexDigit s (.of_not_faulted hs) (.key (.skipKey x) _)
  case skipNotKey x => exact .ite_hexDigit s (.of_not_faulted hs) (.key (.skipNotKey x) _)
  case waitKey => exact .of_not_faulted rfl
  -- the instructions without a check keep the status
  all_goals exact .of_not_faulted (by simpa using hs)

/-! ### who plays the sound (R216) -/

/-- Step 6 plays no sound (R102). -/
theorem State.flush_count_playSound (s : State) : s.flush.env.calls.count .playSound = s.env.calls.count .playSound := by
  rw [State.flush_calls]
  cases s.redraw <;> simp

/-- Nor does the end of a cycle, in any status (R102 to R104). -/
theorem State.endOfCycle_count_playSound (s : State) :
    s.endOfCycle.env.calls.count .playSound = s.env.calls.count .playSound := by
  by_cases h : s.status = .running
  · rw [State.endOfCycle_of_running h, State.flush_count_playSound]
  · rw [State.endOfCycle_of_not_running h]

/-- Asking for the keys plays no sound (R96, R175). -/
theorem State.consumeKeys_count_playSound (s : State) :
    s.consumeKeys.env.calls.count .playSound = s.env.calls.count .playSound := by
  rw [State.consumeKeys_calls, List.count_cons_of_ne HostCall.noConfusion]

/-- A poll plays no sound, whether it completes the WaitKey or not (R175). -/
theorem State.poll_count_playSound (s : State) : s.poll.env.calls.count .playSound = s.env.calls.count .playSound := by
  cases h : newKey s.waitRef s.nextKeys with
  | none => rw [State.poll_of_none h, State.consumeKeys_count_playSound]
  | some k => rw [State.poll_of_some h, State.flush_count_playSound, s.resumedWith_frame, State.consumeKeys_count_playSound]

/-- A cycle plays no sound, SetSound included (R173). -/
theorem State.cycle_count_playSound {s t : State} (h : s.cycle = .next t) :
    t.env.calls.count .playSound = s.env.calls.count .playSound := by
  obtain ⟨-, rfl⟩ | ⟨-, -, rfl⟩ | ⟨-, i, u, -, hu, rfl⟩ := State.cycle_cases h
  · rfl
  · rfl
  · rw [State.endOfCycle_count_playSound, (exec_effect hu).calls_eq, State.refreshKeys_env, State.consumeKeys_count_playSound]

/-- A tick plays the sound once if `ST` is 1, and otherwise not (R211). -/
theorem State.tick_count_playSound (s : State) :
    s.tick.env.calls.count .playSound = s.env.calls.count .playSound + if s.st = 1 then 1 else 0 := by
  rw [State.tick_calls, List.count_append, Nat.add_comm]
  split <;> rfl

/-! ### the statements -/

/-- Settles O31, by the two outcomes of the poll that is the step. -/
theorem waitingFreezesTheMachine : Obligations.WaitingFreezesTheMachine := by
  intro s hs
  have hdt : s.poll.dt = s.dt := by rw [s.poll_frame]
  have hst : s.poll.st = s.st := by rw [s.poll_frame]
  refine ⟨s.poll, step_of_waiting hs, s.poll_frame, hdt, hst, ?_⟩
  cases hk : newKey s.waitRef s.nextKeys with
  | none =>
    rw [State.poll_of_none hk]
    exact .inl ⟨s.consumeKeys_status.trans hs, s.consumeKeys_v, s.consumeKeys_pc⟩
  | some k =>
    rw [State.poll_of_some hk]
    exact .inr ⟨State.flush_status _, k, (newKey_eq_some_iff.mp hk).1⟩

/-- Settles O32: the owner's choice touches the environment alone, and the tick then counts both timers down. -/
theorem tickCountsBothTimersDown : Obligations.TickCountsBothTimersDown := by
  intro s h
  have hcalls := s.consumeAgent.tick_calls
  rw [State.consumeAgent_st, State.consumeAgent_calls] at hcalls
  refine ⟨_, step_of_tickNext h, ?_, ?_, hcalls, ?_, fun a => ?_⟩
  · rw [State.tick_dt, toNat_countDown, State.consumeAgent_dt]
  · rw [State.tick_st, toNat_countDown, State.consumeAgent_st]
  · rw [State.tick_eq, s.consumeAgent_eq]
  · rw [State.tick_mem, State.consumeAgent_mem]

/-- Settles O33, by the three kinds of step: a tick plays the sound when it is due, a cycle and a poll never do. -/
theorem onlyATickPlaysTheSound : Obligations.OnlyATickPlaysTheSound := by
  intro s t h
  obtain ⟨⟨hrun, htick⟩, rfl⟩ | ⟨⟨-, hcycle⟩, ht⟩ | ⟨hwait, rfl⟩ := step_cases h
  · rw [State.tick_count_playSound, State.consumeAgent_calls, State.consumeAgent_st]
    simp only [hrun, htick, true_and]
  · rw [State.cycle_count_playSound ht, State.consumeAgent_calls]
    simp [hcycle]
  · rw [State.poll_count_playSound]
    simp [hwait]

/-- Settles O44: the only way an instruction faults is a fault entry at the state it found. -/
theorem faultingInstructionWritesNothing : Obligations.FaultingInstructionWritesNothing := by
  intro i s t hs he ht
  obtain ⟨k, rfl⟩ := (exec_effect he).eq_raise_of_isFaulted hs ht
  exact ⟨rfl, fun _ => rfl⟩

/-- Settles O45, by the row of the table that the fault belongs to. -/
theorem onlyTheListedInstructionsFault : Obligations.OnlyTheListedInstructionsFault := by
  intro i s t k hw hs he hk
  cases FaultsAsListed.of_exec hw hs he k hk with
  | address i a ha hi => exact .inl ⟨a, rfl, ha, hi⟩
  | character x b hb => exact .inr (.inl ⟨b, rfl, hb, rfl⟩)
  | key i b hb hi => exact .inr (.inr (.inl ⟨b, rfl, hb, hi⟩))
  | pixel x y h px py hp => exact .inr (.inr (.inr ⟨px, py, rfl, hp, rfl⟩))

end Sys2Proof.Machine
end

section
/-! SUPPORT. Construction from a program (R230 to R232): one equation for a program that fits and one for a program that does not. -/

namespace Sys2Proof.Machine

/-- A program that fits is stored at 0x200 in the state after reset (R232). -/
theorem construct_of_fits {p : List Byte} (h : p.length < Config.programLimit) :
    construct p = { State.reset with mem := State.reset.mem.storeBytes Config.programBase p } := if_pos h

/-- A program that does not fit leaves nothing but the fault (R231; log 14). -/
theorem construct_of_too_large {p : List Byte} (h : Config.programLimit ≤ p.length) :
    construct p = State.reset.raise (.programTooLarge p.length Config.programLimit) := if_neg (Nat.not_lt.mpr h)

/-- The bytes of a program that fits end inside memory. -/
theorem program_end_le_memSize {p : List Byte} (h : p.length < Config.programLimit) :
    Config.programBase + p.length ≤ Config.memSize :=
  Nat.add_le_of_le_sub' (by decide) h.le

/-- Settles O56: a program that fits is one store of its bytes into reset memory; one that does not is a fault entry, which
enables no step. -/
theorem constructionLoadsOrRefusesTheProgram : Obligations.ConstructionLoadsOrRefusesTheProgram := by
  refine fun p => ⟨fun h => ?fits, fun h => ?tooLarge⟩
  case fits =>
    rw [construct_of_fits h]
    exact ⟨fun j hj => Memory.read_storeBytes_inside State.reset_inv.mem hj (program_end_le_memSize h),
      fun a ha => Memory.read_storeBytes_of_outside ha, rfl⟩
  case tooLarge =>
    have hstatus : (construct p).status = .faulted (.programTooLarge p.length 3584) := by
      rw [construct_of_too_large h]
      exact State.raise_status _ _
    exact ⟨hstatus, (terminalStatusEnablesNoStep (construct p)).2 _ hstatus⟩

end Sys2Proof.Machine
end
